-- ==== Sys2Proof/Word.lean ====
section
/-! DEFINITION. The word types of the CORE (00_scope.md R8, R9, R11). Every value is unsigned. -/

namespace Sys2Proof

/-- A `u8`: the contents of a general register, a timer or a memory byte (R9, R30). -/
abbrev Byte := BitVec 8

/-- A `u16`: an opcode word, `pc`, `I` or a stack entry (R9, R33, R35, R110). -/
abbrev Word := BitVec 16

/-- A `u12`: the address operand `nnn` (R9, R111). -/
abbrev Addr := BitVec 12

/-- The number of a general register, from a 4-bit field, so always 0..15 (R32). -/
abbrev Reg := Fin 16

/-- The number of a key, 0..15 (R44). -/
abbrev Key := Fin 16

/-- Zero extension of a 12-bit address to 16 bits, the spec's `zext_16` (R9, R113). -/
def Addr.zext (a : Addr) : Word := BitVec.setWidth 16 a

/-- Zero extension of a byte to 16 bits, the spec's `zext_16` (R9). -/
def Byte.zext (b : Byte) : Word := BitVec.setWidth 16 b

end Sys2Proof
end

