-- ==== Sys2Proof/Syntax.lean ====
section
/-! DEFINITION. The instructions: one constructor for each row of spec/opcode_table.json (30_encoding.md R115). A register
field is a `Reg`, `nn` a byte, `nnn` a 12-bit address, `n` a count 0..15 (R111, R113). -/

namespace Sys2Proof

/-- The opcode map of R115, in its order, and last the table's row for the unmapped `0nnn` words (R116, C1). -/
inductive Instr where
  /-- `00E0` CLS (44_display.md R230). -/
  | cls
  /-- `00EE` RET (41_flow.md R160). -/
  | ret
  /-- `1nnn` JP nnn (41_flow.md R161). -/
  | jp (nnn : Addr)
  /-- `2nnn` CALL nnn (41_flow.md R162). -/
  | call (nnn : Addr)
  /-- `3xnn` SE Vx, nn (41_flow.md R163). -/
  | seVxNn (x : Reg) (nn : Byte)
  /-- `4xnn` SNE Vx, nn (41_flow.md R164). -/
  | sneVxNn (x : Reg) (nn : Byte)
  /-- `5xy0` SE Vx, Vy (41_flow.md R165). -/
  | seVxVy (x y : Reg)
  /-- `6xnn` LD Vx, nn (42_register_alu.md R182). -/
  | ldVxNn (x : Reg) (nn : Byte)
  /-- `7xnn` ADD Vx, nn (42_register_alu.md R183). -/
  | addVxNn (x : Reg) (nn : Byte)
  /-- `8xy0` LD Vx, Vy (42_register_alu.md R184). -/
  | ldVxVy (x y : Reg)
  /-- `8xy1` OR Vx, Vy (42_register_alu.md R185). -/
  | orVxVy (x y : Reg)
  /-- `8xy2` AND Vx, Vy (42_register_alu.md R186). -/
  | andVxVy (x y : Reg)
  /-- `8xy3` XOR Vx, Vy (42_register_alu.md R187). -/
  | xorVxVy (x y : Reg)
  /-- `8xy4` ADD Vx, Vy (42_register_alu.md R188). -/
  | addVxVy (x y : Reg)
  /-- `8xy5` SUB Vx, Vy (42_register_alu.md R189). -/
  | subVxVy (x y : Reg)
  /-- `8xy6` SHR Vx; the field `y` is decoded and not used (42_register_alu.md R190). -/
  | shrVx (x y : Reg)
  /-- `8xy7` SUBN Vx, Vy (42_register_alu.md R191). -/
  | subnVxVy (x y : Reg)
  /-- `8xyE` SHL Vx; the field `y` is decoded and not used (42_register_alu.md R192). -/
  | shlVx (x y : Reg)
  /-- `9xy0` SNE Vx, Vy (41_flow.md R166). -/
  | sneVxVy (x y : Reg)
  /-- `Annn` LD I, nnn (43_index_memory.md R211). -/
  | ldINnn (nnn : Addr)
  /-- `Bnnn` JP V0, nnn (41_flow.md R167). -/
  | jpV0 (nnn : Addr)
  /-- `Cxnn` RND Vx, nn (42_register_alu.md R193). -/
  | rndVxNn (x : Reg) (nn : Byte)
  /-- `Dxyn` DRW Vx, Vy, n (44_display.md R231). -/
  | drw (x y : Reg) (n : Fin 16)
  /-- `Ex9E` SKP Vx (45_keys_timers.md R251). -/
  | skp (x : Reg)
  /-- `ExA1` SKNP Vx (45_keys_timers.md R252). -/
  | sknp (x : Reg)
  /-- `Fx07` LD Vx, DT (45_keys_timers.md R258). -/
  | ldVxDt (x : Reg)
  /-- `Fx0A` LD Vx, K (45_keys_timers.md R256). -/
  | ldVxK (x : Reg)
  /-- `Fx15` LD DT, Vx (45_keys_timers.md R259). -/
  | ldDtVx (x : Reg)
  /-- `Fx18` LD ST, Vx (45_keys_timers.md R260). -/
  | ldStVx (x : Reg)
  /-- `Fx1E` ADD I, Vx (43_index_memory.md R212). -/
  | addIVx (x : Reg)
  /-- `Fx29` LD F, Vx (43_index_memory.md R213). -/
  | ldFVx (x : Reg)
  /-- `Fx33` LD B, Vx (43_index_memory.md R214). -/
  | ldBVx (x : Reg)
  /-- `Fx55` LD [I], Vx (43_index_memory.md R215). -/
  | ldMemVx (x : Reg)
  /-- `Fx65` LD Vx, [I] (43_index_memory.md R216). -/
  | ldVxMem (x : Reg)
  /-- `0nnn` SYS nnn, every such word but `00E0` and `00EE`: unmapped, a no-op with a diagnostic (R116, R144). -/
  | sysNnn (nnn : Addr)
  deriving DecidableEq, Repr

end Sys2Proof
end

