-- ==== Sys2Proof/Decode.lean ====
section
/-! DEFINITION. Decoding, total on all 65536 words (30_encoding.md R110 to R117), and the encoder (R120). -/

namespace Sys2Proof

/-- `h = op[15:12]`, the high nibble (R111). -/
def Word.h (op : Word) : Nat := op.toNat / 4096

/-- `x = op[11:8]` (R111). -/
def Word.x (op : Word) : Reg := ⟨op.toNat / 256 % 16, Nat.mod_lt _ (by decide)⟩

/-- `y = op[7:4]` (R111). -/
def Word.y (op : Word) : Reg := ⟨op.toNat / 16 % 16, Nat.mod_lt _ (by decide)⟩

/-- `n = op[3:0]` (R111). -/
def Word.n (op : Word) : Fin 16 := ⟨op.toNat % 16, Nat.mod_lt _ (by decide)⟩

/-- `nn = op[7:0]` (R111). -/
def Word.nn (op : Word) : Byte := BitVec.ofNat 8 op.toNat

/-- `nnn = op[11:0]` (R111). -/
def Word.nnn (op : Word) : Addr := BitVec.ofNat 12 op.toNat

/-- What a word decodes to: `Instruction + Unmapped` (R114). An unmapped word is no illegal instruction: it runs as a no-op
(R116, R117). The unmapped words of the group `0nnn` are the table's row SYS and so come as `.instr (.sysNnn nnn)`. -/
inductive Decoded where
  /-- The word is a row of the opcode table. -/
  | instr (i : Instr)
  /-- The word has a defined high nibble and undefined low bits: it matches no row. -/
  | unmapped (op : Word)
  deriving DecidableEq, Repr

/-- The group `0`: selected on the whole word (R114, R116). -/
def decodeGroup0 (op : Word) : Decoded :=
  match op.toNat with
  | 0x00E0 => .instr .cls
  | 0x00EE => .instr .ret
  | _ => .instr (.sysNnn op.nnn)

/-- The group `8`: selected on `n` (R114, R115). -/
def decodeGroup8 (op : Word) : Decoded :=
  match op.n.val with
  | 0x0 => .instr (.ldVxVy op.x op.y)
  | 0x1 => .instr (.orVxVy op.x op.y)
  | 0x2 => .instr (.andVxVy op.x op.y)
  | 0x3 => .instr (.xorVxVy op.x op.y)
  | 0x4 => .instr (.addVxVy op.x op.y)
  | 0x5 => .instr (.subVxVy op.x op.y)
  | 0x6 => .instr (.shrVx op.x op.y)
  | 0x7 => .instr (.subnVxVy op.x op.y)
  | 0xE => .instr (.shlVx op.x op.y)
  | _ => .unmapped op

/-- The group `E`: selected on `nn` (R114, R115). -/
def decodeGroupE (op : Word) : Decoded :=
  match op.nn.toNat with
  | 0x9E => .instr (.skp op.x)
  | 0xA1 => .instr (.sknp op.x)
  | _ => .unmapped op

/-- The group `F`: selected on `nn` (R114, R115). -/
def decodeGroupF (op : Word) : Decoded :=
  match op.nn.toNat with
  | 0x07 => .instr (.ldVxDt op.x)
  | 0x0A => .instr (.ldVxK op.x)
  | 0x15 => .instr (.ldDtVx op.x)
  | 0x18 => .instr (.ldStVx op.x)
  | 0x1E => .instr (.addIVx op.x)
  | 0x29 => .instr (.ldFVx op.x)
  | 0x33 => .instr (.ldBVx op.x)
  | 0x55 => .instr (.ldMemVx op.x)
  | 0x65 => .instr (.ldVxMem op.x)
  | _ => .unmapped op

/-- `decode`, total on all words: the high nibble first, then the group's selector (R114). -/
def decode (op : Word) : Decoded :=
  match op.h with
  | 0x0 => decodeGroup0 op
  | 0x1 => .instr (.jp op.nnn)
  | 0x2 => .instr (.call op.nnn)
  | 0x3 => .instr (.seVxNn op.x op.nn)
  | 0x4 => .instr (.sneVxNn op.x op.nn)
  | 0x5 => if op.n.val = 0 then .instr (.seVxVy op.x op.y) else .unmapped op
  | 0x6 => .instr (.ldVxNn op.x op.nn)
  | 0x7 => .instr (.addVxNn op.x op.nn)
  | 0x8 => decodeGroup8 op
  | 0x9 => if op.n.val = 0 then .instr (.sneVxVy op.x op.y) else .unmapped op
  | 0xA => .instr (.ldINnn op.nnn)
  | 0xB => .instr (.jpV0 op.nnn)
  | 0xC => .instr (.rndVxNn op.x op.nn)
  | 0xD => .instr (.drw op.x op.y op.n)
  | 0xE => decodeGroupE op
  | _ => decodeGroupF op

/-- Two bytes as a word, the first the high byte: `{hi, lo}`, big-endian (20_memory.md R86). -/
def wordOfBytes (hi lo : Byte) : Word := hi ++ lo

/-- The high byte of a word, the one at the lower address (R86, R120). -/
def Word.hiByte (op : Word) : Byte := BitVec.ofNat 8 (op.toNat / 256)

/-- The low byte of a word (R86, R120). -/
def Word.loByte (op : Word) : Byte := BitVec.ofNat 8 op.toNat

/-- What a string of bytes decodes to: a decoder always consumes exactly two bytes (R110). -/
inductive ByteDecoded where
  /-- Two bytes were read; `rest` is what follows them. -/
  | word (d : Decoded) (rest : List Byte)
  /-- Fewer than two bytes are left. -/
  | truncated
  deriving DecidableEq, Repr

/-- Decoding of a byte string: two bytes, big-endian, and the rest (R86, R110). -/
def decodeBytes : List Byte → ByteDecoded
  | hi :: lo :: rest => .word (decode (wordOfBytes hi lo)) rest
  | _ => .truncated

/-- The instruction read from a word numbered as spec/opcode_table.json numbers it: bit 0 the least significant bit of the
one 16-bit word; the word is laid out big-endian and given to `decodeBytes`. -/
def decodeTableWord (nbits w : Nat) : Option Instr :=
  let op : Word := BitVec.ofNat 16 (w % 2 ^ nbits)
  match decodeBytes [op.hiByte, op.loByte] with
  | .word (.instr i) _ => some i
  | .word (.unmapped _) _ => none
  | .truncated => none

/-- `x` put in `op[11:8]` (R120). -/
def putX (x : Reg) : Word := BitVec.ofNat 16 (x.val * 256)

/-- `y` put in `op[7:4]` (R120). -/
def putY (y : Reg) : Word := BitVec.ofNat 16 (y.val * 16)

/-- `n` put in `op[3:0]` (R120). -/
def putN (n : Fin 16) : Word := BitVec.ofNat 16 n.val

/-- `nn` put in `op[7:0]` (R120). -/
def putNn (nn : Byte) : Word := BitVec.setWidth 16 nn

/-- `nnn` put in `op[11:0]` (R120). -/
def putNnn (nnn : Addr) : Word := BitVec.setWidth 16 nnn

/-- The word of an instruction: its pattern of R115, and each operand put in its field (R120). The pattern is 0 where a
field stands, so adding a field puts it there. -/
def encode : Instr → Word
  | .cls => 0x00E0#16
  | .ret => 0x00EE#16
  | .jp nnn => 0x1000#16 + putNnn nnn
  | .call nnn => 0x2000#16 + putNnn nnn
  | .seVxNn x nn => 0x3000#16 + putX x + putNn nn
  | .sneVxNn x nn => 0x4000#16 + putX x + putNn nn
  | .seVxVy x y => 0x5000#16 + putX x + putY y
  | .ldVxNn x nn => 0x6000#16 + putX x + putNn nn
  | .addVxNn x nn => 0x7000#16 + putX x + putNn nn
  | .ldVxVy x y => 0x8000#16 + putX x + putY y
  | .orVxVy x y => 0x8001#16 + putX x + putY y
  | .andVxVy x y => 0x8002#16 + putX x + putY y
  | .xorVxVy x y => 0x8003#16 + putX x + putY y
  | .addVxVy x y => 0x8004#16 + putX x + putY y
  | .subVxVy x y => 0x8005#16 + putX x + putY y
  | .shrVx x y => 0x8006#16 + putX x + putY y
  | .subnVxVy x y => 0x8007#16 + putX x + putY y
  | .shlVx x y => 0x800E#16 + putX x + putY y
  | .sneVxVy x y => 0x9000#16 + putX x + putY y
  | .ldINnn nnn => 0xA000#16 + putNnn nnn
  | .jpV0 nnn => 0xB000#16 + putNnn nnn
  | .rndVxNn x nn => 0xC000#16 + putX x + putNn nn
  | .drw x y n => 0xD000#16 + putX x + putY y + putN n
  | .skp x => 0xE09E#16 + putX x
  | .sknp x => 0xE0A1#16 + putX x
  | .ldVxDt x => 0xF007#16 + putX x
  | .ldVxK x => 0xF00A#16 + putX x
  | .ldDtVx x => 0xF015#16 + putX x
  | .ldStVx x => 0xF018#16 + putX x
  | .addIVx x => 0xF01E#16 + putX x
  | .ldFVx x => 0xF029#16 + putX x
  | .ldBVx x => 0xF033#16 + putX x
  | .ldMemVx x => 0xF055#16 + putX x
  | .ldVxMem x => 0xF065#16 + putX x
  | .sysNnn nnn => putNnn nnn

/-- The words of an instruction in memory: one word, its high byte first (R86, R110, R120). -/
def encodeBytes (i : Instr) : List Byte := [(encode i).hiByte, (encode i).loByte]

/-- The words that R116 lists as unmapped, group by group. -/
def isUnmapped (op : Word) : Bool :=
  match op.h with
  | 0x0 => op != 0x00E0#16 && op != 0x00EE#16
  | 0x5 => op.n.val != 0
  | 0x8 => [0x8, 0x9, 0xA, 0xB, 0xC, 0xD, 0xF].contains op.n.val
  | 0x9 => op.n.val != 0
  | 0xE => !([0x9E, 0xA1].contains op.nn.toNat)
  | 0xF => !([0x07, 0x0A, 0x15, 0x18, 0x1E, 0x29, 0x33, 0x55, 0x65].contains op.nn.toNat)
  | _ => false

end Sys2Proof
end

