-- ==== Sys2Proof/Config.lean ====
section
/-! DEFINITION. What is fixed for the machine: parameters of 00_scope.md R7, the named alternatives of a parameter the source
leaves open, and the one free value. `NUM_V`, `STACK_DEPTH`, `FB_W`, `FB_H` and `NUM_KEYS` stand in the types of State's
fields. The values the spec DECIDES for an open parameter stand in Machine/Params.lean. -/

namespace Sys2Proof

namespace Config

/-- `MEM_SIZE` (R7, R80). -/
def memSize : Nat := 4096

/-- `PROGRAM_START` (R7, R91). -/
def programStart : Nat := 0x200

/-- `MAX_IMAGE = MEM_SIZE - PROGRAM_START`, 3584 bytes (R7, R93). -/
def maxImage : Nat := memSize - programStart

/-- `PC_RESET`, where execution starts (R7, R35, D3). -/
def pcReset : Word := 0x200#16

/-- `TIMER_HZ` (R7, R333). -/
def timerHz : Nat := 60

/-- `GLYPH_BYTES`, bytes per glyph (R7, R92). -/
def glyphBytes : Nat := 5

/-- FREE VALUE (log entry 3: DESIGN CHOICE). The byte that the `n`-th call of `RandomByte()` answers: any byte, under no law
(10_state.md R47, 60_exceptions.md R287, U3). -/
opaque randomByte : Nat → Byte

end Config

/-- `KEY_INDEX_POLICY` (R7, R250): what SKP and SKNP do with a key value above 15. -/
inductive KeyIndexPolicy where
  /-- A value above 15 raises `Fault(KEY_RANGE)`. -/
  | fault
  /-- The low nibble of the value names the key; nothing faults. -/
  | lowNibble
  deriving DecidableEq, Repr

end Sys2Proof
end

