-- ==== Sys2Proof/Machine/State.lean ====
section
/-! DEFINITION. The state of the CORE: every piece 10_state.md names, as plain data, and `State.reset`
(70_reset_and_hazards.md R310, R311). -/

namespace Sys2Proof.Machine

/-- The causes of a fault (60_exceptions.md R271). -/
inductive FaultCause where
  /-- CALL with `SP = 16`. -/
  | stackOverflow
  /-- RET with `SP = 0`. -/
  | stackUnderflow
  /-- SKP or SKNP with `V[x] > 15`. -/
  | keyRange
  deriving DecidableEq, Repr

/-- The 4-bit code of a cause (R46, R52, R271). -/
def FaultCause.code : FaultCause → BitVec 4
  | .stackOverflow => 1
  | .stackUnderflow => 2
  | .keyRange => 3

/-- The fault record `rec` (10_state.md R46). -/
structure FaultRecord where
  /-- Why the instruction faulted. -/
  cause : FaultCause
  /-- The address the faulting instruction was fetched from. -/
  pc0 : Word
  /-- The faulting opcode word. -/
  op : Word
  deriving DecidableEq, Repr

/-- The run state `run` (10_state.md R45). -/
inductive RunState where
  /-- `RUN`: the next step fetches at `pc`. -/
  | running
  /-- `WAIT_KEY(x)`: a LD Vx,K is suspended, `x` its destination. -/
  | waitKey (x : Reg)
  /-- `FAULTED(rec)`: the CORE stopped on a fault. -/
  | faulted (record : FaultRecord)
  deriving DecidableEq, Repr

/-- An event of the diagnostic log: an unmapped word and where it was fetched (10_state.md R48, R145). -/
structure Diagnostic where
  pc0 : Word
  op : Word
  deriving DecidableEq, Repr

/-- The transactions of the block (10_state.md R55) that change state or are answered, and `stepEnded`, the host's own
record of when a step ended (R49; log entry 8: DESIGN CHOICE). -/
inductive Transaction where
  /-- `RESET(T0, R)`, by the host (R310). -/
  | reset (t0 rate : Rat)
  /-- `load_program(bytes)`, by the host (R93). -/
  | loadProgram (bytes : List Byte)
  /-- `step()`, or the completion of a key wait, by the core (R140, R257). -/
  | coreStep
  /-- `advance_timers(now)`, by the time base (R280). -/
  | advanceTimers (now : Rat)
  /-- `snapshot_framebuffer()`, by the host (R283). -/
  | snapshotFramebuffer
  /-- `set_key_state(key, pressed)`, by the host (R286). -/
  | setKeyState (key : Int) (pressed : Bool)
  /-- `is_sound_active()`, by the host (R41, R284). -/
  | isSoundActive
  /-- `set_instruction_rate(hz)`, by the host (R331). -/
  | setInstructionRate (hz : Rat)
  /-- Inspection, by the host (R290). -/
  | inspect
  /-- The pacing timestamp `t_last` becomes `now`, by the host (R49, R330; log entry 8: DESIGN CHOICE). -/
  | stepEnded (now : Rat)
  deriving DecidableEq, Repr

/-- Memory: the bytes that differ from what reset put there, by rising address (20_memory.md R80; the canonical form is
`Memory.wf` of Machine/Memory.lean). -/
abbrev Memory := List Host.Cell

/-- The framebuffer: row `y` is entry `y`, and the pixel of column `x` is bit `x` of its row (10_state.md R43). -/
abbrev Framebuffer := Vector (BitVec 64) 32

/-- Everything the spec gives the machine (10_state.md R30 to R52), and two fields of the model's own: `draws` and
`schedule`. -/
structure State where
  /-- `V[0..15]` (R30, R31). -/
  v : Vector Byte 16
  /-- `I` (R33). -/
  index : Word
  /-- `pc` (R35). -/
  pc : Word
  /-- `stack[0..15]` (R38). -/
  stack : Vector Word 16
  /-- `SP`, the count 0..16 of entries in use (R39). -/
  sp : Fin 17
  /-- `DT` (R40). -/
  dt : Byte
  /-- `ST` (R41). -/
  st : Byte
  /-- `t_ref`, in seconds (R42). -/
  tRef : Rat
  /-- `fb` (R43). -/
  fb : Framebuffer
  /-- `keys[0..15]`, true for pressed (R44). -/
  keys : Vector Bool 16
  /-- `run` (R45). -/
  run : RunState
  /-- The diagnostic log, oldest event first (R48). -/
  diag : List Diagnostic
  /-- `R`, the instruction rate in Hz (R49). -/
  rate : Rat
  /-- `t_last`, the pacing timestamp in seconds (R49). -/
  tLast : Rat
  /-- `mem[0..4095]` (R80). -/
  mem : Memory
  /-- The model's own: how many random bytes were drawn so far, so that each draw is a fresh one (R47; log entry 3: DESIGN CHOICE). -/
  draws : Nat
  /-- The model's own: the transactions to take next, in order; the core steps when none is listed (R54; log entry 4: DESIGN CHOICE). -/
  schedule : List Transaction
  deriving DecidableEq, Repr

/-- Why the machine stops: no agent has an enabled step. Neither is an error of the model; in both the state stays as it
was. -/
inductive Fault where
  /-- Answered by the core's step in `FAULTED(rec)`: it changes nothing and returns the same `Fault(rec)` again (R147, R274).
  Safe: the machine has no core step here either. -/
  | stopped (record : FaultRecord)
  /-- Answered by the core's step in `WAIT_KEY(x)` while no key is pressed: the core has no enabled step (R148, U6).
  Safe: the machine has no core step here either; a scheduled key press lets the wait end. -/
  | waitingForKey (x : Reg)
  deriving DecidableEq, Repr

/-- Why an instruction is refused. -/
inductive Refusal where
  /-- For an arm of `exec` that has no meaning yet; no arm of this model answers it. Safe. -/
  | notModelled (mnemonic : String)
  deriving DecidableEq, Repr

/-- The state after `RESET(t0, rate)` (R310, R311, R312): memory lists nothing, so every byte reads as reset left it.
The two fields of the model's own start at 0 and empty (log entries 3 and 4: DESIGN CHOICE), and `t_last` at `t0` (log entry 8: DESIGN CHOICE). -/
def State.resetWith (t0 rate : Rat) : State where
  v := Vector.replicate 16 0x00#8
  index := 0x0000#16
  pc := Config.pcReset
  stack := Vector.replicate 16 0x0000#16
  sp := 0
  dt := 0x00#8
  st := 0x00#8
  tRef := t0
  fb := Vector.replicate 32 0#64
  keys := Vector.replicate 16 false
  run := .running
  diag := []
  rate := rate
  tLast := t0
  mem := []
  draws := 0
  schedule := []

/-- The machine right after reset: `RESET(0, 500)`. The two arguments are the model's choice (log entry 1: DESIGN CHOICE). -/
def State.reset : State := State.resetWith 0 500

end Sys2Proof.Machine
end

