-- ==== Sys2Proof/Machine/Params.lean ====
section
/-! DEFINITION. The values the spec decides for the parameters the source leaves open (00_scope.md R7). -/

namespace Sys2Proof.Machine

/-- `GLYPH_BASE` (R7, R92, D5). -/
def glyphBase : Nat := 0x000

/-- `KEY_INDEX_POLICY = fault` (R7, R250, D13; log entry 12: UNVERIFIED). -/
def keyIndexPolicy : KeyIndexPolicy := .fault

/-- `LOADSTORE_INCREMENTS_I = false` (R7, R217, D12; log entry 14: UNVERIFIED). -/
def loadStoreIncrementsI : Bool := false

/-- `GLYPH_ROM`, the 16 glyphs of five bytes each, digit 0 first (R92, R312; 93_implementation_defined.md I4;
log entry 9: UNVERIFIED). -/
def glyphRom : List Byte :=
  [0xF0#8, 0x90#8, 0x90#8, 0x90#8, 0xF0#8] ++ [0x20#8, 0x60#8, 0x20#8, 0x20#8, 0x70#8] ++
  [0xF0#8, 0x10#8, 0xF0#8, 0x80#8, 0xF0#8] ++ [0xF0#8, 0x10#8, 0xF0#8, 0x10#8, 0xF0#8] ++
  [0x90#8, 0x90#8, 0xF0#8, 0x10#8, 0x10#8] ++ [0xF0#8, 0x80#8, 0xF0#8, 0x10#8, 0xF0#8] ++
  [0xF0#8, 0x80#8, 0xF0#8, 0x90#8, 0xF0#8] ++ [0xF0#8, 0x10#8, 0x20#8, 0x40#8, 0x40#8] ++
  [0xF0#8, 0x90#8, 0xF0#8, 0x90#8, 0xF0#8] ++ [0xF0#8, 0x90#8, 0xF0#8, 0x10#8, 0xF0#8] ++
  [0xF0#8, 0x90#8, 0xF0#8, 0x90#8, 0x90#8] ++ [0xE0#8, 0x90#8, 0xE0#8, 0x90#8, 0xE0#8] ++
  [0xF0#8, 0x80#8, 0x80#8, 0x80#8, 0xF0#8] ++ [0xE0#8, 0x90#8, 0x90#8, 0x90#8, 0xE0#8] ++
  [0xF0#8, 0x80#8, 0xF0#8, 0x80#8, 0xF0#8] ++ [0xF0#8, 0x80#8, 0xF0#8, 0x80#8, 0x80#8]

end Sys2Proof.Machine
end

