-- ==== Sys2Proof/Machine/Memory.lean ====
section
/-! DEFINITION. The one memory of 4096 bytes (20_memory.md R80 to R95). Every address is reduced mod 4096 here, in `read`
and `write`, and nowhere else; no access faults (R83). Memory is held as the sorted list of the bytes that differ from what
reset left there. -/

namespace Sys2Proof.Machine

/-- An address as memory sees it: reduced mod 4096 (R83). -/
def wrapAddr (a : Nat) : Nat := a % Config.memSize

/-- The byte reset leaves at `a`: the glyph table at `GLYPH_BASE`, zero elsewhere (R91, R92, R312). This is what an address
that the list does not hold reads as. -/
def Memory.initial (a : Nat) : Byte :=
  if a < glyphBase then 0x00#8 else glyphRom.getD (a - glyphBase) 0x00#8

/-- The byte listed for exactly this address, if there is one. -/
def Memory.find? : Memory → Nat → Option Byte
  | [], _ => none
  | (k, b) :: rest, a => if k = a then some b else Memory.find? rest a

/-- `MemRead(addr, 1)` (R81, R83). -/
def Memory.read (m : Memory) (a : Nat) : Byte :=
  (m.find? (wrapAddr a)).getD (Memory.initial (wrapAddr a))

/-- The list without the entry for `a`. -/
def Memory.erase : Memory → Nat → Memory
  | [], _ => []
  | (k, b) :: rest, a => if k = a then Memory.erase rest a else (k, b) :: Memory.erase rest a

/-- The list with `b` at `a`, keeping the addresses rising. -/
def Memory.insert : Memory → Nat → Byte → Memory
  | [], a, b => [(a, b)]
  | (k, c) :: rest, a, b =>
    if a < k then (a, b) :: (k, c) :: rest
    else if k = a then (a, b) :: rest
    else (k, c) :: Memory.insert rest a b

/-- `MemWrite(addr, 1, v)` (R82, R83). Writing what reset left there removes the entry, so equal memories are equal data. -/
def Memory.write (m : Memory) (a : Nat) (b : Byte) : Memory :=
  if b = Memory.initial (wrapAddr a) then m.erase (wrapAddr a) else m.insert (wrapAddr a) b

/-- Writes the bytes at `a`, `a + 1`, ... in increasing order, each address reduced mod 4096 (R83, R210). -/
def Memory.storeBytes : Memory → Nat → List Byte → Memory
  | m, _, [] => m
  | m, a, b :: rest => Memory.storeBytes (m.write a b) (a + 1) rest

/-- `Fetch16(a)`: the byte at `a` is the high byte (R86, R87). -/
def Memory.fetch16 (m : Memory) (a : Word) : Word :=
  wordOfBytes (m.read a.toNat) (m.read (a.toNat + 1))

/-- The canonical form, from a lowest address on: addresses rising, below 4096, and no entry that equals what reset left. -/
def Memory.wfFrom : Nat → Memory → Bool
  | _, [] => true
  | lo, (a, b) :: rest =>
    decide (lo ≤ a) && decide (a < Config.memSize) && (b != Memory.initial a) && Memory.wfFrom (a + 1) rest

/-- The canonical form of memory. -/
def Memory.wf (m : Memory) : Bool := Memory.wfFrom 0 m

end Sys2Proof.Machine
end

