-- ==== Sys2Proof/Machine/Framebuffer.lean ====
section
/-! DEFINITION. The framebuffer and the sprite plot (10_state.md R43; 44_display.md R231 to R234). -/

namespace Sys2Proof.Machine

/-- `fb[px][py]` (R43). -/
def Framebuffer.pixel (fb : Framebuffer) (px : Fin 64) (py : Fin 32) : Bool := fb[py.val].getLsbD px.val

/-- `fb[px][py] <- fb[px][py] ^ 1` (R232). -/
def Framebuffer.toggle (fb : Framebuffer) (px : Fin 64) (py : Fin 32) : Framebuffer :=
  fb.set py.val (fb[py.val] ^^^ BitVec.twoPow 64 px.val)

/-- Every pixel 0 (R230). -/
def Framebuffer.blank : Framebuffer := Vector.replicate 32 0#64

/-- `Plot(px, py)`: XOR one pixel; the answer is true when it went from 1 to 0 (R232). -/
def Framebuffer.plot (fb : Framebuffer) (px : Fin 64) (py : Fin 32) : Framebuffer × Bool :=
  (fb.toggle px py, !(fb.toggle px py).pixel px py)

/-- Bit `7 - c` of a row byte: the pixel of column `ox + c`; bit 7 is the leftmost (R233). -/
def spriteBit (row : Byte) (c : Nat) : Bool := row.getLsbD (7 - c)

/-- One column of DRW's inner loop: a 1 bit on the grid is plotted, one beyond the grid is dropped, never wrapped (R231). The
pair is the framebuffer and `hit`. -/
def drawBit (row : Byte) (ox py c : Nat) (acc : Framebuffer × Bool) : Framebuffer × Bool :=
  if h : ox + c < 64 ∧ py < 32 then
    if spriteBit row c then
      ((acc.1.plot ⟨ox + c, h.1⟩ ⟨py, h.2⟩).1, acc.2 || (acc.1.plot ⟨ox + c, h.1⟩ ⟨py, h.2⟩).2)
    else acc
  else acc

/-- DRW's inner loop: the eight columns of one row (R231). -/
def drawRow (row : Byte) (ox py : Nat) (acc : Framebuffer × Bool) : Framebuffer × Bool :=
  (List.range 8).foldl (fun acc c => drawBit row ox py c acc) acc

/-- DRW's outer loop: the first `n` rows, row `r` from `mem[(base + r) mod 4096]` (R231, R233). -/
def drawRows (m : Memory) (base : Word) (ox oy : Nat) (n : Nat) (acc : Framebuffer × Bool) : Framebuffer × Bool :=
  (List.range n).foldl (fun acc r => drawRow (m.read (base.toNat + r)) ox (oy + r) acc) acc

end Sys2Proof.Machine
end

