-- ==== Sys2Proof/Machine/Ops.lean ====
section
/-! DEFINITION. The named operations over the state: the setters (one for each field), the registers, the program counter,
the call stack, the keys, the random source, the diagnostic log, and taking a fault. Meanings change the state through these
alone. -/

namespace Sys2Proof.Machine

/-! The setters. -/

def State.setV (s : State) (x : Vector Byte 16) : State := { s with v := x }
def State.setIndex (s : State) (x : Word) : State := { s with index := x }
def State.setPc (s : State) (x : Word) : State := { s with pc := x }
def State.setStack (s : State) (x : Vector Word 16) : State := { s with stack := x }
def State.setSp (s : State) (x : Fin 17) : State := { s with sp := x }
def State.setDt (s : State) (x : Byte) : State := { s with dt := x }
def State.setSt (s : State) (x : Byte) : State := { s with st := x }
def State.setTRef (s : State) (x : Rat) : State := { s with tRef := x }
def State.setFb (s : State) (x : Framebuffer) : State := { s with fb := x }
def State.setKeys (s : State) (x : Vector Bool 16) : State := { s with keys := x }
def State.setRun (s : State) (x : RunState) : State := { s with run := x }
def State.setDiag (s : State) (x : List Diagnostic) : State := { s with diag := x }
def State.setRate (s : State) (x : Rat) : State := { s with rate := x }
def State.setTLast (s : State) (x : Rat) : State := { s with tLast := x }
def State.setMem (s : State) (x : Memory) : State := { s with mem := x }
def State.setDraws (s : State) (x : Nat) : State := { s with draws := x }
def State.setSchedule (s : State) (x : List Transaction) : State := { s with schedule := x }

/-! Registers. -/

/-- `V[x]` (R30). -/
def State.readV (s : State) (x : Reg) : Byte := s.v[x.val]

/-- `V[x] <- b` (R30). -/
def State.writeV (s : State) (x : Reg) (b : Byte) : State := s.setV (s.v.set x.val b)

/-- The number of VF (R31). -/
def regF : Reg := 15

/-- `VF <- flag` (R31). -/
def State.writeVF (s : State) (flag : Byte) : State := s.writeV regF flag

/-- A result to `V[x]` first and a flag to VF last, so that the flag stays when `x = 15` (42_register_alu.md R181). -/
def State.writeResultFlag (s : State) (x : Reg) (result flag : Byte) : State := (s.writeV x result).writeVF flag

/-! The program counter. -/

/-- The step's advance past the word: `pc <- pc0 + 2`, mod 2^16, before the instruction's own effect (R36, R142). -/
def State.advance (s : State) : State := s.setPc (s.pc + 2#16)

/-- A skip: `pc <- pc + 2` when the condition holds (R36, R142). -/
def State.skipIf (s : State) (c : Bool) : State := if c then s.setPc (s.pc + 2#16) else s

/-! The call stack (R38, R39). -/

/-- `push(v)`; none on a full stack (R39). -/
def State.push (s : State) (w : Word) : Option State :=
  if h : s.sp.val < 16 then
    some ((s.setStack (s.stack.set s.sp.val w)).setSp ⟨s.sp.val + 1, Nat.succ_lt_succ h⟩)
  else none

/-- `pop()`: the value and the state after; none on an empty stack. The popped entry keeps its value (R39, R160). -/
def State.pop (s : State) : Option (Word × State) :=
  if h : 0 < s.sp.val then
    some (s.stack[s.sp.val - 1]'(by have := s.sp.isLt; omega), s.setSp ⟨s.sp.val - 1, by have := s.sp.isLt; omega⟩)
  else none

/-! Taking a fault. There is no return from one: only RESET leaves `FAULTED` (R276, R310). -/

/-- `raise Fault(cause)` in the step of the instruction `op`, applied to the state BEFORE the step: every change of the step is
discarded, `pc` is still `pc0`, and only `run` changes (R146, R272, R275). -/
def State.raise (s : State) (cause : FaultCause) (op : Word) : State :=
  s.setRun (.faulted ⟨cause, s.pc, op⟩)

/-! Keys. -/

/-- `KeyPressed(k)` (R44). -/
def State.keyPressed (s : State) (k : Key) : Bool := s.keys[k.val]

/-- `select(keys)`: the lowest-numbered pressed key, none when no key is pressed (45_keys_timers.md R254, R255). -/
def State.selectKey (s : State) : Option Key := (List.finRange 16).find? fun k => s.keyPressed k

/-- A key's number as a register value. -/
def keyByte (k : Key) : Byte := BitVec.ofNat 8 k.val

/-! The random source and the diagnostic log. -/

/-- `RandomByte()`: the byte of this draw, and the state in which the next draw is a fresh one (R47; log entry 3: DESIGN CHOICE). -/
def State.randomByte (s : State) : Byte × State := (Config.randomByte s.draws, s.setDraws (s.draws + 1))

/-- `emit Diagnostic(pc0, op)` (40_execution_cycle.md R145). -/
def State.emitDiagnostic (s : State) (pc0 op : Word) : State := s.setDiag (s.diag ++ [⟨pc0, op⟩])

/-- The effect of an unmapped word, on the state before its step: the advance and the diagnostic, nothing else (R144). -/
def State.unmappedNop (s : State) (op : Word) : State := s.advance.emitDiagnostic s.pc op

/-! Memory. -/

/-- `Fetch16(pc)` (R86, R141). -/
def State.fetchWord (s : State) : Word := s.mem.fetch16 s.pc

/-- Stores the bytes at `I`, `I + 1`, ... (43_index_memory.md R210). -/
def State.storeAtIndex (s : State) (bytes : List Byte) : State := s.setMem (s.mem.storeBytes s.index.toNat bytes)

end Sys2Proof.Machine
end

