-- ==== Sys2Proof/Machine/Flags.lean ====
section
/-! DEFINITION. Every result and every flag of the arithmetic, computed from the operands as they were before the
instruction (42_register_alu.md R180, R195): exactly on unbounded integers, then narrowed (R9). -/

namespace Sys2Proof.Machine

/-- A flag as the value of VF: 1 or 0. -/
def flagByte (b : Bool) : Byte := if b then 1#8 else 0#8

/-- `(a + b) mod 256` (R195). -/
def addResult (a b : Byte) : Byte := BitVec.ofNat 8 (a.toNat + b.toNat)

/-- The carry: 1 iff `a + b > 255` (R188, R195). -/
def carryFlag (a b : Byte) : Byte := flagByte (decide (255 < a.toNat + b.toNat))

/-- `(a - b) mod 256` (R195). -/
def subResult (a b : Byte) : Byte := BitVec.ofInt 8 ((a.toNat : Int) - (b.toNat : Int))

/-- No borrow: 1 iff `a >= b` (R189, R195). -/
def noBorrowFlag (a b : Byte) : Byte := flagByte (decide (b.toNat ≤ a.toNat))

/-- `a >> 1` (R190). -/
def shrResult (a : Byte) : Byte := a >>> 1

/-- The bit shifted out to the right, the old bit 0 (R190). -/
def shrFlag (a : Byte) : Byte := flagByte (a.getLsbD 0)

/-- `(a << 1) mod 256` (R192). -/
def shlResult (a : Byte) : Byte := a <<< 1

/-- The bit shifted out to the left, the old bit 7 (R192). -/
def shlFlag (a : Byte) : Byte := flagByte (a.getLsbD 7)

/-- `I + a`, unbounded (R212). -/
def indexSum (index : Word) (a : Byte) : Nat := index.toNat + a.toNat

/-- `I` after ADD I: the sum, masked to 12 bits when it exceeds 0x0FFF (R212). -/
def addIndexResult (index : Word) (a : Byte) : Word :=
  if 0x0FFF < indexSum index a then BitVec.ofNat 16 (indexSum index a) &&& 0x0FFF#16
  else BitVec.ofNat 16 (indexSum index a)

/-- The flag of ADD I: 1 iff the sum exceeds 0x0FFF (R212). -/
def addIndexFlag (index : Word) (a : Byte) : Byte := flagByte (decide (0x0FFF < indexSum index a))

/-- The masked random byte (R193). -/
def randomResult (r mask : Byte) : Byte := r &&& mask

end Sys2Proof.Machine
end

