-- ==== Sys2Proof/Machine/Operands.lean ====
section
/-! DEFINITION. The operand forms: what an instruction makes of a register's or a field's value before it computes (R113,
43_index_memory.md R210, 44_display.md R231, 45_keys_timers.md R250). -/

namespace Sys2Proof.Machine

/-- The key that a register value names (R250). Under `fault` a value above 15 names none; under `low_nibble` its low nibble
counts. -/
def keyNumber (policy : KeyIndexPolicy) (b : Byte) : Option Key :=
  match policy with
  | .fault => if h : b.toNat < 16 then some ⟨b.toNat, h⟩ else none
  | .lowNibble => some ⟨b.toNat % 16, Nat.mod_lt _ (by decide)⟩

/-- The column of a sprite's origin: `V[x] mod 64` (R231). -/
def originX (b : Byte) : Nat := b.toNat % 64

/-- The row of a sprite's origin: `V[y] mod 32` (R231). -/
def originY (b : Byte) : Nat := b.toNat % 32

/-- The target of JP V0: `nnn + V0`, not masked to 12 bits (R167). -/
def jumpV0Target (nnn : Addr) (v0 : Byte) : Word := nnn.zext + v0.zext

/-- The address of a glyph: `GLYPH_BASE + V[x] * 5`, of the whole value (R213). -/
def glyphAddress (b : Byte) : Word := BitVec.ofNat 16 (glyphBase + b.toNat * Config.glyphBytes)

/-- The decimal digits of a byte: hundreds, tens, units (R214). -/
def bcdDigits (b : Byte) : List Byte :=
  [BitVec.ofNat 8 (b.toNat / 100), BitVec.ofNat 8 (b.toNat / 10 % 10), BitVec.ofNat 8 (b.toNat % 10)]

/-- The values of V0..Vx, in that order (R215). -/
def State.registersUpTo (s : State) (x : Reg) : List Byte := s.v.toList.take (x.val + 1)

/-- V0..Vx loaded from `base`, `base + 1`, ..., the other registers kept (R216). -/
def State.loadRegisters (s : State) (base : Word) (x : Reg) : State :=
  s.setV (Vector.ofFn fun i : Reg => if i.val ≤ x.val then s.mem.read (base.toNat + i.val) else s.readV i)

/-- `I` after LD [I],Vx or LD Vx,[I]: kept, or moved by `x + 1` under `LOADSTORE_INCREMENTS_I = true` (R217). -/
def indexAfterTransfer (increments : Bool) (index : Word) (x : Reg) : Word :=
  if increments then index + BitVec.ofNat 16 (x.val + 1) else index

end Sys2Proof.Machine
end

