-- ==== Sys2Proof/Machine/Display.lean ====
section
/-! DEFINITION. Clear and sprite draw (44_display.md). -/

namespace Sys2Proof.Machine

open Host (Outcome)

/-- The framebuffer and `hit` after DRW's loops: the origin and `I` are read before anything is written (R231). -/
def State.drawn (s : State) (x y : Reg) (n : Fin 16) : Framebuffer × Bool :=
  drawRows s.mem s.index (originX (s.readV x)) (originY (s.readV y)) n.val (s.fb, false)

/-- CLS (R230). -/
def execCls (s : State) : Outcome State Fault Refusal :=
  .next (s.advance.setFb Framebuffer.blank)

/-- DRW Vx, Vy, n: VF is the collision flag, written on every DRW, after all plots (R231). -/
def execDrw (x y : Reg) (n : Fin 16) (s : State) : Outcome State Fault Refusal :=
  .next ((s.advance.setFb (s.drawn x y n).1).writeVF (flagByte (s.drawn x y n).2))

end Sys2Proof.Machine
end

