-- ==== Sys2Proof/Machine/Flow.lean ====
section
/-! DEFINITION. Control flow (41_flow.md). A meaning is applied to the state before its step, in which `pc` is `pc0`; `advance`
makes it `pc0 + 2` before the instruction's own effect (R142). -/

namespace Sys2Proof.Machine

open Host (Outcome)

/-- RET: `pc <- pop()`; an empty stack raises STACK_UNDERFLOW (R160). -/
def execRet (s : State) : Outcome State Fault Refusal :=
  match s.advance.pop with
  | some (target, t) => .next (t.setPc target)
  | none => .next (s.raise .stackUnderflow (encode .ret))

/-- JP nnn (R161). -/
def execJp (nnn : Addr) (s : State) : Outcome State Fault Refusal :=
  .next (s.advance.setPc nnn.zext)

/-- CALL nnn: the pushed value is `pc0 + 2`; a full stack raises STACK_OVERFLOW (R162). -/
def execCall (nnn : Addr) (s : State) : Outcome State Fault Refusal :=
  match s.advance.push s.advance.pc with
  | some t => .next (t.setPc nnn.zext)
  | none => .next (s.raise .stackOverflow (encode (.call nnn)))

/-- SE Vx, nn (R163). -/
def execSeVxNn (x : Reg) (nn : Byte) (s : State) : Outcome State Fault Refusal :=
  .next (s.advance.skipIf (s.readV x == nn))

/-- SNE Vx, nn (R164). -/
def execSneVxNn (x : Reg) (nn : Byte) (s : State) : Outcome State Fault Refusal :=
  .next (s.advance.skipIf (s.readV x != nn))

/-- SE Vx, Vy (R165). -/
def execSeVxVy (x y : Reg) (s : State) : Outcome State Fault Refusal :=
  .next (s.advance.skipIf (s.readV x == s.readV y))

/-- SNE Vx, Vy (R166). -/
def execSneVxVy (x y : Reg) (s : State) : Outcome State Fault Refusal :=
  .next (s.advance.skipIf (s.readV x != s.readV y))

/-- JP V0, nnn (R167). -/
def execJpV0 (nnn : Addr) (s : State) : Outcome State Fault Refusal :=
  .next (s.advance.setPc (jumpV0Target nnn (s.readV 0)))

end Sys2Proof.Machine
end

