-- ==== Sys2Proof/Machine/IndexMemory.lean ====
section
/-! DEFINITION. The index register and the memory transfers (43_index_memory.md). -/

namespace Sys2Proof.Machine

open Host (Outcome)

/-- LD I, nnn (R211). -/
def execLdINnn (nnn : Addr) (s : State) : Outcome State Fault Refusal :=
  .next (s.advance.setIndex nnn.zext)

/-- ADD I, Vx: VF is written in both cases, after `I` (R212). -/
def execAddIVx (x : Reg) (s : State) : Outcome State Fault Refusal :=
  .next ((s.advance.setIndex (addIndexResult s.index (s.readV x))).writeVF (addIndexFlag s.index (s.readV x)))

/-- LD F, Vx (R213). -/
def execLdFVx (x : Reg) (s : State) : Outcome State Fault Refusal :=
  .next (s.advance.setIndex (glyphAddress (s.readV x)))

/-- LD B, Vx: the three digits at `I`, `I + 1`, `I + 2`; `I` is kept (R214, R217). -/
def execLdBVx (x : Reg) (s : State) : Outcome State Fault Refusal :=
  .next (s.advance.storeAtIndex (bcdDigits (s.readV x)))

/-- LD [I], Vx: V0..Vx at `I`, `I + 1`, ... (R215, R217). -/
def execLdMemVx (x : Reg) (s : State) : Outcome State Fault Refusal :=
  .next ((s.advance.storeAtIndex (s.registersUpTo x)).setIndex (indexAfterTransfer loadStoreIncrementsI s.index x))

/-- LD Vx, [I]: V0..Vx from `I`, `I + 1`, ... (R216, R217). -/
def execLdVxMem (x : Reg) (s : State) : Outcome State Fault Refusal :=
  .next ((s.advance.loadRegisters s.index x).setIndex (indexAfterTransfer loadStoreIncrementsI s.index x))

end Sys2Proof.Machine
end

