-- ==== Sys2Proof/Machine/KeysTimers.lean ====
section
/-! DEFINITION. Keyboard and timer instructions (45_keys_timers.md). -/

namespace Sys2Proof.Machine

open Host (Outcome)

/-- SKP Vx: a key value above 15 raises KEY_RANGE (R250, R251). -/
def execSkp (x : Reg) (s : State) : Outcome State Fault Refusal :=
  match keyNumber keyIndexPolicy (s.readV x) with
  | some k => .next (s.advance.skipIf (s.keyPressed k))
  | none => .next (s.raise .keyRange (encode (.skp x)))

/-- SKNP Vx: a key value above 15 raises KEY_RANGE (R250, R252). -/
def execSknp (x : Reg) (s : State) : Outcome State Fault Refusal :=
  match keyNumber keyIndexPolicy (s.readV x) with
  | some k => .next (s.advance.skipIf (!s.keyPressed k))
  | none => .next (s.raise .keyRange (encode (.sknp x)))

/-- LD Vx, K: the lowest pressed key, or the start of a wait (R254, R255, R256). -/
def execLdVxK (x : Reg) (s : State) : Outcome State Fault Refusal :=
  match s.selectKey with
  | some k => .next (s.advance.writeV x (keyByte k))
  | none => .next (s.advance.setRun (.waitKey x))

/-- The completion of a key wait, in `WAIT_KEY(x)`: enabled exactly when some key is pressed. It fetches nothing and leaves
`pc` (R257). -/
def State.completeWait (s : State) (x : Reg) : Option State :=
  s.selectKey.map fun k => (s.writeV x (keyByte k)).setRun .running

/-- LD Vx, DT (R258). -/
def execLdVxDt (x : Reg) (s : State) : Outcome State Fault Refusal :=
  .next (s.advance.writeV x s.dt)

/-- LD DT, Vx: `t_ref` does not move (R259). -/
def execLdDtVx (x : Reg) (s : State) : Outcome State Fault Refusal :=
  .next (s.advance.setDt (s.readV x))

/-- LD ST, Vx: `t_ref` does not move (R260). -/
def execLdStVx (x : Reg) (s : State) : Outcome State Fault Refusal :=
  .next (s.advance.setSt (s.readV x))

end Sys2Proof.Machine
end

