-- ==== Sys2Proof/Machine/RegisterAlu.lean ====
section
/-! DEFINITION. Register moves, arithmetic, logic, shifts and random (42_register_alu.md). Every operand is read from the
state before the step (R180). -/

namespace Sys2Proof.Machine

open Host (Outcome)

/-- LD Vx, nn (R182). -/
def execLdVxNn (x : Reg) (nn : Byte) (s : State) : Outcome State Fault Refusal :=
  .next (s.advance.writeV x nn)

/-- ADD Vx, nn: no flag (R183). -/
def execAddVxNn (x : Reg) (nn : Byte) (s : State) : Outcome State Fault Refusal :=
  .next (s.advance.writeV x (addResult (s.readV x) nn))

/-- LD Vx, Vy (R184). -/
def execLdVxVy (x y : Reg) (s : State) : Outcome State Fault Refusal :=
  .next (s.advance.writeV x (s.readV y))

/-- OR Vx, Vy: no flag (R185). -/
def execOrVxVy (x y : Reg) (s : State) : Outcome State Fault Refusal :=
  .next (s.advance.writeV x (s.readV x ||| s.readV y))

/-- AND Vx, Vy: no flag (R186). -/
def execAndVxVy (x y : Reg) (s : State) : Outcome State Fault Refusal :=
  .next (s.advance.writeV x (s.readV x &&& s.readV y))

/-- XOR Vx, Vy: no flag (R187). -/
def execXorVxVy (x y : Reg) (s : State) : Outcome State Fault Refusal :=
  .next (s.advance.writeV x (s.readV x ^^^ s.readV y))

/-- ADD Vx, Vy: VF is the carry (R188). -/
def execAddVxVy (x y : Reg) (s : State) : Outcome State Fault Refusal :=
  .next (s.advance.writeResultFlag x (addResult (s.readV x) (s.readV y)) (carryFlag (s.readV x) (s.readV y)))

/-- SUB Vx, Vy: VF is 1 when there is no borrow (R189). -/
def execSubVxVy (x y : Reg) (s : State) : Outcome State Fault Refusal :=
  .next (s.advance.writeResultFlag x (subResult (s.readV x) (s.readV y)) (noBorrowFlag (s.readV x) (s.readV y)))

/-- SHR Vx: VF is the bit shifted out; the field `y` is ignored (R190). -/
def execShrVx (x _y : Reg) (s : State) : Outcome State Fault Refusal :=
  .next (s.advance.writeResultFlag x (shrResult (s.readV x)) (shrFlag (s.readV x)))

/-- SUBN Vx, Vy: `V[y] - V[x]`; VF is 1 when there is no borrow (R191). -/
def execSubnVxVy (x y : Reg) (s : State) : Outcome State Fault Refusal :=
  .next (s.advance.writeResultFlag x (subResult (s.readV y) (s.readV x)) (noBorrowFlag (s.readV y) (s.readV x)))

/-- SHL Vx: VF is the bit shifted out; the field `y` is ignored (R192). -/
def execShlVx (x _y : Reg) (s : State) : Outcome State Fault Refusal :=
  .next (s.advance.writeResultFlag x (shlResult (s.readV x)) (shlFlag (s.readV x)))

/-- RND Vx, nn: a fresh random byte, masked (R193). -/
def execRndVxNn (x : Reg) (nn : Byte) (s : State) : Outcome State Fault Refusal :=
  .next (s.advance.randomByte.2.writeV x (randomResult s.advance.randomByte.1 nn))

end Sys2Proof.Machine
end

