-- ==== Sys2Proof/Machine/Unmapped.lean ====
section
/-! DEFINITION. Unmapped words: no-ops that log a diagnostic (40_execution_cycle.md R144, R145). -/

namespace Sys2Proof.Machine

open Host (Outcome)

/-- SYS nnn, the table's row for the unmapped `0nnn` words (30_encoding.md R116, 90_conflicts.md C1). -/
def execSysNnn (nnn : Addr) (s : State) : Outcome State Fault Refusal :=
  .next (s.unmappedNop (encode (.sysNnn nnn)))

/-- Every other unmapped word (R116, R144). -/
def execUnmapped (op : Word) (s : State) : Outcome State Fault Refusal :=
  .next (s.unmappedNop op)

end Sys2Proof.Machine
end

