-- ==== Sys2Proof/Machine/Cycle.lean ====
section
/-! DEFINITION. The core's transaction: the fetch-decode-execute step and the completion of a key wait
(40_execution_cycle.md R140, R148, R149). -/

namespace Sys2Proof.Machine

open Host (Outcome)

/-- One step of the core in `RUN`: fetch at `pc`, decode, run the instruction or log the unmapped word (R140). -/
def State.runInstruction (s : State) : Outcome State Fault Refusal :=
  match decode s.fetchWord with
  | .instr i => exec i s
  | .unmapped op => execUnmapped op s

/-- `step()` by run state (R140). A fault here says that the core has no enabled step (R147, R148; log entry 5: DEDUCED). -/
def State.coreStep (s : State) : Outcome State Fault Refusal :=
  match s.run with
  | .running => s.runInstruction
  | .waitKey x =>
    match s.completeWait x with
    | some t => .next t
    | none => .fault (.waitingForKey x)
  | .faulted record => .fault (.stopped record)

/-- The state with a word where the next step fetches, the core running and no other transaction before its step
(log entry 20: DEDUCED). -/
def State.placeWord (s : State) (op : Word) : State :=
  ((s.setMem (s.mem.storeBytes s.pc.toNat [op.hiByte, op.loByte])).setRun .running).setSchedule []

end Sys2Proof.Machine
end

