-- ==== Sys2Proof/Machine/Transactions.lean ====
section
/-! DEFINITION. The transactions of the time base and the host (10_state.md R55; 60_exceptions.md R280 to R290;
20_memory.md R93; 70_reset_and_hazards.md R310, R330, R331), each with its answer, and how the schedule interleaves them with
the core's step (R53, R54; log entry 4: DESIGN CHOICE). -/

namespace Sys2Proof.Machine

open Host (Outcome)

/-! The time base. -/

/-- `max(0, c - k)` of an 8-bit counter (R280). -/
def decay (c : Byte) (k : Nat) : Byte := BitVec.ofNat 8 (c.toNat - k)

/-- `TICK(k)`: both counters lose the same `k`, floored at 0 (R281, R282). -/
def State.tick (s : State) (k : Nat) : State := (s.setDt (decay s.dt k)).setSt (decay s.st k)

/-- The whole 60 Hz ticks elapsed since the reference point; may be 0 or less (R280). -/
def State.ticksElapsed (s : State) (now : Rat) : Int := ⌊(now - s.tRef) * (Config.timerHz : Rat)⌋

/-- `advance_timers(now)`: the reference point moves by the consumed time only (R280). -/
def State.advanceTimers (s : State) (now : Rat) : State :=
  if 1 ≤ s.ticksElapsed now then
    (s.tick (s.ticksElapsed now).toNat).setTRef (s.tRef + (s.ticksElapsed now : Rat) / (Config.timerHz : Rat))
  else s

/-! The host. -/

/-- `sound_active` (R41, R284). -/
def State.soundActive (s : State) : Bool := s.st != 0#8

/-- What inspection shows (R290). -/
structure Inspection where
  v : Vector Byte 16
  index : Word
  pc : Word
  sp : Fin 17
  /-- `stack[0..SP-1]`. -/
  liveStack : List Word
  dt : Byte
  st : Byte
  run : RunState
  mem : Memory
  diag : List Diagnostic
  deriving DecidableEq, Repr

/-- Inspection: a copy of the state the host may read (R290). -/
def State.inspection (s : State) : Inspection where
  v := s.v
  index := s.index
  pc := s.pc
  sp := s.sp
  liveStack := s.stack.toList.take s.sp.val
  dt := s.dt
  st := s.st
  run := s.run
  mem := s.mem
  diag := s.diag

/-- What a transaction returns to the agent that took it (R55). -/
inductive Answer where
  /-- Nothing is returned. -/
  | done
  /-- `Ok`, of `step` and `load_program` (R93, R140). -/
  | ok
  /-- `Waiting`: the step ended in `WAIT_KEY(x)` (R140). -/
  | waiting
  /-- `Fault(rec)`: the step ended in, or found, `FAULTED(rec)` (R140, R147). -/
  | fault (record : FaultRecord)
  /-- The step is not enabled: `WAIT_KEY` and no key pressed (R148). -/
  | notEnabled
  /-- `CapacityError`, of `load_program` (R93, R277). -/
  | capacityError
  /-- The transaction was refused: an argument outside its domain (R286, R331). -/
  | refused
  /-- The 64 x 32 grid (R283). -/
  | framebuffer (fb : Framebuffer)
  /-- `ST != 0` (R41). -/
  | sound (active : Bool)
  /-- The copy of the state (R290). -/
  | inspection (view : Inspection)
  deriving DecidableEq, Repr

/-- `RESET(T0, R)` on a running machine: every piece of state takes its reset value (R310). What the model itself keeps goes on:
the draws already made and the transactions still to come (log entries 3 and 4: DESIGN CHOICE). -/
def State.resetAgain (s : State) (t0 rate : Rat) : State :=
  ((State.resetWith t0 rate).setDraws s.draws).setSchedule s.schedule

/-- `load_program(bytes)`: all or nothing, and nothing but the image's bytes (R93, R277). -/
def State.loadProgram (s : State) (bytes : List Byte) : Answer × State :=
  if Config.maxImage < bytes.length then (.capacityError, s)
  else (.ok, s.setMem (s.mem.storeBytes Config.programStart bytes))

/-- `keys[key] <- pressed` (R286). -/
def State.writeKey (s : State) (k : Key) (pressed : Bool) : State := s.setKeys (s.keys.set k.val pressed)

/-- `set_key_state(key, pressed)`; a key outside 0..15 is refused (R286). -/
def State.setKeyState (s : State) (key : Int) (pressed : Bool) : Answer × State :=
  if h : 0 ≤ key ∧ key < 16 then (.done, s.writeKey ⟨key.toNat, by omega⟩ pressed) else (.refused, s)

/-- `set_instruction_rate(hz)`; a non-positive rate is refused (R331). -/
def State.setInstructionRate (s : State) (hz : Rat) : Answer × State :=
  if 0 < hz then (.done, s.setRate hz) else (.refused, s)

/-- The host's pacing sleep after a step, in nanoseconds: `max(0, 1e9 / R - elapsed)`. It changes no state (R330). -/
def State.pacingSleep (s : State) (now : Rat) : Rat := max 0 (1000000000 / s.rate - (now - s.tLast) * 1000000000)

/-- What `step()` returns when it ended in this state (R140). -/
def State.stepAnswer (s : State) : Answer :=
  match s.run with
  | .running => .ok
  | .waitKey _ => .waiting
  | .faulted record => .fault record

/-- `step()` as a transaction: a core with no enabled step answers so and changes nothing (R140, R147, R148). -/
def State.stepTransaction (s : State) : Answer × State :=
  match s.coreStep with
  | .next t => (t.stepAnswer, t)
  | .fault (.stopped record) => (.fault record, s)
  | .fault (.waitingForKey _) => (.notEnabled, s)
  | .refused _ => (.refused, s)

/-- A transaction's answer and the state after it (R55). -/
def State.transact (s : State) : Transaction → Answer × State
  | .reset t0 rate => if 0 ≤ t0 ∧ 0 < rate then (.done, s.resetAgain t0 rate) else (.refused, s)
  | .loadProgram bytes => s.loadProgram bytes
  | .coreStep => s.stepTransaction
  | .advanceTimers now => (.done, s.advanceTimers now)
  | .snapshotFramebuffer => (.framebuffer s.fb, s)
  | .setKeyState key pressed => s.setKeyState key pressed
  | .isSoundActive => (.sound s.soundActive, s)
  | .setInstructionRate hz => s.setInstructionRate hz
  | .inspect => (.inspection s.inspection, s)
  | .stepEnded now => (.done, s.setTLast now)

/-- The next atomic transaction of the machine: the first one scheduled, or the core's step when none is (R54). -/
def State.nextTransaction (s : State) : Outcome State Fault Refusal :=
  match s.schedule with
  | [] => s.coreStep
  | t :: rest => .next ((s.setSchedule rest).transact t).2

end Sys2Proof.Machine
end

