-- ==== Sys2Proof/Machine/Step.lean ====
section
/-! DEFINITION. `step`: the machine's next atomic transaction (10_state.md R54, 40_execution_cycle.md R140). -/

namespace Sys2Proof.Machine

/-- One step. With nothing scheduled it is the core's `step()` (R140). -/
def step (s : State) : Host.Outcome State Fault Refusal := s.nextTransaction

/-- The state with the instruction of word `w` (numbered as spec/opcode_table.json numbers it, `nbits` of it given) where the
next step fetches, the core running and nothing scheduled before it (log entry 20: DEDUCED). -/
def State.withFetchWord (s : State) (nbits w : Nat) : State := s.placeWord (BitVec.ofNat 16 (w % 2 ^ nbits))

end Sys2Proof.Machine
end

