-- ==== Sys2Proof/Safety.lean ====
section
/-! DEFINITION. The words the claims are stated in: which parts of the state a step leaves alone, the invariants, when the
core is enabled, and the end of a run (40_execution_cycle.md R150). -/

namespace Sys2Proof.Machine

/-- The word of format A: a high nibble and `nnn` (30_encoding.md R112). -/
def wordA (h : Nat) (nnn : Addr) : Word := BitVec.ofNat 16 (h * 4096 + nnn.toNat)

/-- The word of formats XNN and X: a high nibble, `x`, and the low byte `nn` or the selector (R112). -/
def wordXNN (h : Nat) (x : Reg) (low : Nat) : Word := BitVec.ofNat 16 (h * 4096 + x.val * 256 + low)

/-- The word of formats XY and XYN: a high nibble, `x`, `y`, and the selector or `n` (R112). -/
def wordXYN (h : Nat) (x y : Reg) (low : Nat) : Word := BitVec.ofNat 16 (h * 4096 + x.val * 256 + y.val * 16 + low)

/-- The parts of the state, one for each field. -/
inductive Part where
  | v | index | pc | stack | sp | dt | st | tRef | fb | keys | run | diag | rate | tLast | mem | draws | schedule
  deriving DecidableEq, Repr

/-- The part is the same in `t` as in `s`. Memory is compared through the read of one byte. -/
def Part.Same (s t : State) : Part → Prop
  | .v => ∀ r, t.readV r = s.readV r
  | .index => t.index = s.index
  | .pc => t.pc = s.pc
  | .stack => t.stack = s.stack
  | .sp => t.sp = s.sp
  | .dt => t.dt = s.dt
  | .st => t.st = s.st
  | .tRef => t.tRef = s.tRef
  | .fb => t.fb = s.fb
  | .keys => t.keys = s.keys
  | .run => t.run = s.run
  | .diag => t.diag = s.diag
  | .rate => t.rate = s.rate
  | .tLast => t.tLast = s.tLast
  | .mem => ∀ a, t.mem.read a = s.mem.read a
  | .draws => t.draws = s.draws
  | .schedule => t.schedule = s.schedule

/-- Every part but those listed is the same in `t` as in `s`: the frame of a step. -/
def FrameExcept (changed : List Part) (s t : State) : Prop := ∀ p, p ∉ changed → p.Same s t

/-- The general registers an instruction may write: its destination, and VF for an instruction that writes a flag (R31, R181,
and the rule of each instruction). -/
def Writes (r : Reg) : Instr → Prop
  | .ldVxNn x _ | .addVxNn x _ | .ldVxVy x _ | .orVxVy x _ | .andVxVy x _ | .xorVxVy x _ => r = x
  | .rndVxNn x _ | .ldVxDt x | .ldVxK x => r = x
  | .addVxVy x _ | .subVxVy x _ | .shrVx x _ | .subnVxVy x _ | .shlVx x _ => r = x ∨ r = regF
  | .drw _ _ _ | .addIVx _ => r = regF
  | .ldVxMem x => r ≤ x
  | .cls | .ret | .jp _ | .call _ | .jpV0 _ | .sysNnn _ => False
  | .seVxNn _ _ | .sneVxNn _ _ | .seVxVy _ _ | .sneVxVy _ _ | .skp _ | .sknp _ => False
  | .ldINnn _ | .ldFVx _ | .ldBVx _ | .ldMemVx _ | .ldDtVx _ | .ldStVx _ => False

/-- `t` has `b` in `V[x]`, and every other general register as in `s`. -/
def SetsRegister (x : Reg) (b : Byte) (s t : State) : Prop := ∀ r, t.readV r = if r = x then b else s.readV r

/-- `t` has `flag` in VF, `b` in `V[x]` unless `x` is 15, and every other general register as in `s` (R181). -/
def SetsRegisterAndFlag (x : Reg) (b flag : Byte) (s t : State) : Prop :=
  ∀ r, t.readV r = if r = regF then flag else if r = x then b else s.readV r

/-- The fault of the instruction `op` with this cause was taken: only `run` differs (R146, R272). -/
def TakesFault (cause : FaultCause) (op : Word) (s t : State) : Prop :=
  t.run = .faulted ⟨cause, s.pc, op⟩ ∧ FrameExcept [.run] s t

/-- The invariant of the registers and of memory: `I <= 0x0FFF` (R34), memory in its canonical form, `t_ref` not negative
(R42), the rate positive (R49). -/
structure State.Inv (s : State) : Prop where
  index_le : s.index.toNat ≤ 0x0FFF
  mem_wf : s.mem.wf = true
  tRef_nonneg : 0 ≤ s.tRef
  rate_pos : 0 < s.rate

/-- A fault record fits the state it stands in: it names where the core stopped, and an instruction that raises its cause on
this very state (R146, R271, R272). -/
def FaultRecord.Fits (record : FaultRecord) (s : State) : Prop :=
  record.pc0 = s.pc ∧
  match record.cause with
  | .stackOverflow => s.sp = 16 ∧ ∃ nnn, decode record.op = .instr (.call nnn)
  | .stackUnderflow => s.sp = 0 ∧ decode record.op = .instr .ret
  | .keyRange =>
    ∃ x, (decode record.op = .instr (.skp x) ∨ decode record.op = .instr (.sknp x)) ∧ 15 < (s.readV x).toNat

/-- The word at `pc` raises this cause on the state `s` (R271). -/
def State.Raises (s : State) : FaultCause → Prop
  | .stackOverflow => s.sp = 16 ∧ ∃ nnn, decode s.fetchWord = .instr (.call nnn)
  | .stackUnderflow => s.sp = 0 ∧ decode s.fetchWord = .instr .ret
  | .keyRange =>
    ∃ x, (decode s.fetchWord = .instr (.skp x) ∨ decode s.fetchWord = .instr (.sknp x)) ∧ 15 < (s.readV x).toNat

/-- Whenever the core has stopped on a fault, the record fits the state. -/
def State.RecordFits (s : State) : Prop := ∀ record, s.run = .faulted record → record.Fits s

/-- The core has an enabled step (R140, R147, R148). -/
def State.CoreEnabled (s : State) : Prop :=
  s.run = .running ∨ ∃ x, s.run = .waitKey x ∧ ∃ k, s.keyPressed k = true

/-- Two states agree on everything but what no instruction reads: `ST` (R41), `t_ref` (R42), the diagnostic log (R48), the
rate and the pacing stamp (R49), and the model's own schedule. -/
def AgreeOnWhatIsRead (s s' : State) : Prop := FrameExcept [.st, .tRef, .diag, .rate, .tLast, .schedule] s s'

/-- Two states agree on everything but the stack entries at and above `SP`, which were not pushed since reset or were popped
again (R38, R39). -/
def AgreeBelowSp (s s' : State) : Prop :=
  FrameExcept [.stack] s s' ∧ ∀ k (hk : k < 16), k < s.sp.val → s'.stack[k] = s.stack[k]

/-- `pc` and every stack entry in use are even (R37). -/
def State.EvenCounters (s : State) : Prop :=
  s.pc.toNat % 2 = 0 ∧ ∀ k (hk : k < 16), k < s.sp.val → s.stack[k].toNat % 2 = 0

/-- The end of a run: `run = RUN` and the word at `pc` jumps to its own address (R150). -/
def State.AtEnd (s : State) : Prop :=
  s.run = .running ∧ ∃ nnn, decode s.fetchWord = .instr (.jp nnn) ∧ nnn.zext = s.pc

/-- Bit of the sprite of height `n` at `base`, drawn with its origin at column `ox` and row `oy`, that falls on the pixel
(px, py): row `r` is the byte at `base + r`, bit 7 its leftmost pixel (44_display.md R233). Off the sprite there is no bit. -/
def spritePixel (m : Memory) (base : Word) (ox oy n : Nat) (px : Fin 64) (py : Fin 32) : Bool :=
  decide (ox ≤ px.val) && decide (px.val < ox + 8) && decide (oy ≤ py.val) && decide (py.val < oy + n) &&
    (m.read (base.toNat + (py.val - oy))).getLsbD (7 - (px.val - ox))

end Sys2Proof.Machine
end

