-- ==== Sys2Proof/Certificates/Slice0/Obligations.lean ====
section
/-! DEFINITION. The statements for the provers. Every one is about every state, every operand and every form, unless its
hypotheses say otherwise. `exec i s` is applied to the state before the step, in which `pc` is the address the instruction was
fetched from; `wordA`, `wordXNN` and `wordXYN` write a word out field by field. The encodings are the spec's (30_encoding.md
R115; log entry 10). -/

open Sys2Proof Sys2Proof.Machine

/-! ## Encoding -/

/-- Decoding the word an instruction is encoded to gives the instruction back, for every well-formed instruction and every
operand (R115, R120). -/
def Obligations.DecodeOfEncodeIsIdentity : Prop :=
  ∀ i : Instr, i.wf = true → decode (encode i) = .instr i

/-- Each word has one meaning: a word that decodes to an instruction is the word of that instruction, and the instruction is
well-formed, so no bit of a mapped word is dropped (R114, R115, R120). -/
def Obligations.EncodeOfDecodeIsIdentity : Prop :=
  ∀ (op : Word) (i : Instr), decode op = .instr i → i.wf = true ∧ encode i = op

/-- The words R116 lists as unmapped are exactly those the decoder answers `unmapped`, or the table's row SYS (log entry 16). -/
def Obligations.UnmappedWordsAreThoseListed : Prop :=
  ∀ op : Word,
    (isUnmapped op = true ↔ decode op = .unmapped op ∨ ∃ nnn, decode op = .instr (.sysNnn nnn)) ∧
    ∀ op', decode op = .unmapped op' → op' = op

/-- Words written out from the patterns of R115, at least one of each of the six formats (R112), decode to what they stand
for. -/
def Obligations.SampleWordsDecode : Prop :=
  decode 0x00E0#16 = .instr .cls ∧ decode 0x12A8#16 = .instr (.jp 0x2A8#12) ∧ decode 0x6A2F#16 = .instr (.ldVxNn 10 0x2F#8) ∧
  decode 0x8014#16 = .instr (.addVxVy 0 1) ∧ decode 0xD345#16 = .instr (.drw 3 4 5) ∧
  decode 0xA2F0#16 = .instr (.ldINnn 0x2F0#12) ∧ decode 0xE19E#16 = .instr (.skp 1) ∧
  decode 0xF533#16 = .instr (.ldBVx 5) ∧ decode 0x8008#16 = .unmapped 0x8008#16

/-! ## The step -/

/-- With nothing scheduled and `run = RUN`, a step runs the instruction that the two bytes at `pc` (the lower address the high
byte) decode to, and adds nothing around it: `exec` itself advances `pc` (R86, R140, R142). -/
def Obligations.StepRunsDecodedInstruction : Prop :=
  ∀ (s : State) (i : Instr), s.schedule = [] → s.run = .running →
    decode (wordOfBytes (s.mem.read s.pc.toNat) (s.mem.read (s.pc.toNat + 1))) = .instr i → step s = exec i s

/-- Every word that R116 lists as unmapped runs as a no-op: `pc` advances by 2, the event `(pc0, op)` is appended to the
diagnostic log, nothing else changes, and the step returns `Ok` (R144). -/
def Obligations.UnmappedWordIsNop : Prop :=
  ∀ s : State, s.schedule = [] → s.run = .running → isUnmapped s.fetchWord = true →
    ∃ t, step s = .next t ∧ s.stepTransaction = (.ok, t) ∧ t.pc = s.pc + 2#16 ∧
      t.diag = s.diag ++ [⟨s.pc, s.fetchWord⟩] ∧ FrameExcept [.pc, .diag] s t

/-- SYS nnn, the unmapped words `0nnn` as a row of the table, completes in every state: a no-op with a diagnostic (R116, R144). -/
def Obligations.SysIsNopWithDiagnostic : Prop :=
  ∀ (s : State) (nnn : Addr),
    ∃ t, exec (.sysNnn nnn) s = .next t ∧ t.pc = s.pc + 2#16 ∧ t.diag = s.diag ++ [⟨s.pc, wordA 0x0 nnn⟩] ∧
      FrameExcept [.pc, .diag] s t

/-- The fetched word is big-endian, its two addresses reduced mod 4096, whatever `pc` is: the high byte is the one at
`pc mod 4096`, the low byte the one after it, which is 0x000 after 0xFFF (R86). -/
def Obligations.FetchIsBigEndianAndWraps : Prop :=
  ∀ s : State,
    s.fetchWord.toNat = 256 * (s.mem.read (s.pc.toNat % 4096)).toNat +
      (s.mem.read (if s.pc.toNat % 4096 = 0xFFF then 0x000 else s.pc.toNat % 4096 + 1)).toNat

/-- The core has a step exactly when it is enabled: in `RUN`, and in `WAIT_KEY` when some key is pressed; and it never
refuses (R140, R147, R148). -/
def Obligations.CoreStepsExactlyWhenEnabled : Prop :=
  ∀ s : State, (s.CoreEnabled ↔ ∃ t, s.coreStep = .next t) ∧ ∀ r, s.coreStep ≠ .refused r

/-- The machine stops only when nothing is scheduled and the core has no enabled step: on its fault record, or in a key wait
with no key pressed; and it never refuses (R147, R148; log entry 5). -/
def Obligations.MachineStopsOnlyWhenStuck : Prop :=
  ∀ s : State,
    (∀ f, step s = .fault f ↔ s.schedule = [] ∧
      ((∃ record, s.run = .faulted record ∧ f = .stopped record) ∨
        ∃ x, s.run = .waitKey x ∧ f = .waitingForKey x ∧ ∀ k, s.keyPressed k = false)) ∧
    ∀ r, step s ≠ .refused r

/-! ## Register moves, arithmetic, logic -/

/-- LD Vx, nn; LD Vx, Vy; LD Vx, DT (R182, R184, R258). -/
def Obligations.RegisterLoadResults : Prop :=
  ∀ (s : State) (x y : Reg) (nn : Byte),
    (decode (wordXNN 0x6 x nn.toNat) = .instr (.ldVxNn x nn) ∧
      ∃ t, exec (.ldVxNn x nn) s = .next t ∧ SetsRegister x nn s t ∧ t.pc = s.pc + 2#16 ∧ FrameExcept [.v, .pc] s t) ∧
    (decode (wordXYN 0x8 x y 0x0) = .instr (.ldVxVy x y) ∧
      ∃ t, exec (.ldVxVy x y) s = .next t ∧ SetsRegister x (s.readV y) s t ∧ t.pc = s.pc + 2#16 ∧
        FrameExcept [.v, .pc] s t) ∧
    (decode (wordXNN 0xF x 0x07) = .instr (.ldVxDt x) ∧
      ∃ t, exec (.ldVxDt x) s = .next t ∧ SetsRegister x s.dt s t ∧ t.pc = s.pc + 2#16 ∧ FrameExcept [.v, .pc] s t)

/-- ADD Vx, nn: the sum mod 256; VF does not change but as `V[x]` (R183). -/
def Obligations.AddImmediateResult : Prop :=
  ∀ (s : State) (x : Reg) (nn : Byte),
    decode (wordXNN 0x7 x nn.toNat) = .instr (.addVxNn x nn) ∧
    ∃ (t : State) (b : Byte), exec (.addVxNn x nn) s = .next t ∧ b.toNat = ((s.readV x).toNat + nn.toNat) % 256 ∧
      SetsRegister x b s t ∧ t.pc = s.pc + 2#16 ∧ FrameExcept [.v, .pc] s t

/-- OR, AND, XOR, bit by bit; VF does not change but as `V[x]` (R185, R186, R187). -/
def Obligations.LogicResults : Prop :=
  ∀ (s : State) (x y : Reg),
    (decode (wordXYN 0x8 x y 0x1) = .instr (.orVxVy x y) ∧
      ∃ (t : State) (b : Byte), exec (.orVxVy x y) s = .next t ∧
        (∀ k, b.getLsbD k = ((s.readV x).getLsbD k || (s.readV y).getLsbD k)) ∧
        SetsRegister x b s t ∧ t.pc = s.pc + 2#16 ∧ FrameExcept [.v, .pc] s t) ∧
    (decode (wordXYN 0x8 x y 0x2) = .instr (.andVxVy x y) ∧
      ∃ (t : State) (b : Byte), exec (.andVxVy x y) s = .next t ∧
        (∀ k, b.getLsbD k = ((s.readV x).getLsbD k && (s.readV y).getLsbD k)) ∧
        SetsRegister x b s t ∧ t.pc = s.pc + 2#16 ∧ FrameExcept [.v, .pc] s t) ∧
    (decode (wordXYN 0x8 x y 0x3) = .instr (.xorVxVy x y) ∧
      ∃ (t : State) (b : Byte), exec (.xorVxVy x y) s = .next t ∧
        (∀ k, b.getLsbD k = ((s.readV x).getLsbD k ^^ (s.readV y).getLsbD k)) ∧
        SetsRegister x b s t ∧ t.pc = s.pc + 2#16 ∧ FrameExcept [.v, .pc] s t)

/-- ADD Vx, Vy: the sum mod 256 and the carry; SUB and SUBN: the difference mod 256 and "no borrow". The result and the flag
come from the operands before the instruction, and VF holds the flag also when `x = 15` (R188, R189, R191; the order of the two
writes is the spec's decision D10, log entry 11). -/
def Obligations.AddAndSubtractResults : Prop :=
  ∀ (s : State) (x y : Reg),
    (decode (wordXYN 0x8 x y 0x4) = .instr (.addVxVy x y) ∧
      ∃ (t : State) (b : Byte), exec (.addVxVy x y) s = .next t ∧
        b.toNat = ((s.readV x).toNat + (s.readV y).toNat) % 256 ∧
        SetsRegisterAndFlag x b (if (s.readV x).toNat + (s.readV y).toNat > 255 then 1#8 else 0#8) s t ∧
        t.pc = s.pc + 2#16 ∧ FrameExcept [.v, .pc] s t) ∧
    (decode (wordXYN 0x8 x y 0x5) = .instr (.subVxVy x y) ∧
      ∃ (t : State) (b : Byte), exec (.subVxVy x y) s = .next t ∧
        (b.toNat : Int) = ((s.readV x).toNat - (s.readV y).toNat : Int) % 256 ∧
        SetsRegisterAndFlag x b (if (s.readV x).toNat ≥ (s.readV y).toNat then 1#8 else 0#8) s t ∧
        t.pc = s.pc + 2#16 ∧ FrameExcept [.v, .pc] s t) ∧
    (decode (wordXYN 0x8 x y 0x7) = .instr (.subnVxVy x y) ∧
      ∃ (t : State) (b : Byte), exec (.subnVxVy x y) s = .next t ∧
        (b.toNat : Int) = ((s.readV y).toNat - (s.readV x).toNat : Int) % 256 ∧
        SetsRegisterAndFlag x b (if (s.readV y).toNat ≥ (s.readV x).toNat then 1#8 else 0#8) s t ∧
        t.pc = s.pc + 2#16 ∧ FrameExcept [.v, .pc] s t)

/-- SHR and SHL shift `V[x]` by one, whatever the field `y`, and VF is the bit shifted out, also when `x = 15` (R190, R192;
the operand of the shifts is the spec's decision D31, the order of the two writes D10). -/
def Obligations.ShiftResults : Prop :=
  ∀ (s : State) (x y : Reg),
    (decode (wordXYN 0x8 x y 0x6) = .instr (.shrVx x y) ∧
      ∃ (t : State) (b flag : Byte), exec (.shrVx x y) s = .next t ∧ b.toNat = (s.readV x).toNat / 2 ∧
        flag.toNat = (s.readV x).toNat % 2 ∧ SetsRegisterAndFlag x b flag s t ∧
        t.pc = s.pc + 2#16 ∧ FrameExcept [.v, .pc] s t) ∧
    (decode (wordXYN 0x8 x y 0xE) = .instr (.shlVx x y) ∧
      ∃ (t : State) (b flag : Byte), exec (.shlVx x y) s = .next t ∧ b.toNat = (s.readV x).toNat * 2 % 256 ∧
        flag.toNat = (s.readV x).toNat / 128 ∧ SetsRegisterAndFlag x b flag s t ∧
        t.pc = s.pc + 2#16 ∧ FrameExcept [.v, .pc] s t)

/-- RND Vx, nn: a random byte masked by `nn`, so that every bit that is 0 in `nn` is 0 in `V[x]`; the statement holds whatever
byte is drawn. That the byte is `Config.randomByte` at the number of draws so far is the model's form of the free value
(log entry 3), not the spec's rule (R47, R193). -/
def Obligations.RandomResult : Prop :=
  ∀ (s : State) (x : Reg) (nn : Byte),
    ∃ t, exec (.rndVxNn x nn) s = .next t ∧ SetsRegister x (Config.randomByte s.draws &&& nn) s t ∧
      (∀ k, nn.getLsbD k = false → (t.readV x).getLsbD k = false) ∧
      t.draws = s.draws + 1 ∧ t.pc = s.pc + 2#16 ∧ FrameExcept [.v, .pc, .draws] s t

/-! ## Control flow -/

/-- JP nnn: the target, odd or even, is taken as it is (R161). -/
def Obligations.JumpResult : Prop :=
  ∀ (s : State) (nnn : Addr),
    decode (wordA 0x1 nnn) = .instr (.jp nnn) ∧
    ∃ t, exec (.jp nnn) s = .next t ∧ t.pc.toNat = nnn.toNat ∧ FrameExcept [.pc] s t

/-- JP V0, nnn: the sum, not masked to 12 bits; an odd target is taken as it is (R167; the 16 bits of `pc` are the spec's decision
D2, log entry 15). -/
def Obligations.ComputedJumpResult : Prop :=
  ∀ (s : State) (nnn : Addr),
    decode (wordA 0xB nnn) = .instr (.jpV0 nnn) ∧
    ∃ t, exec (.jpV0 nnn) s = .next t ∧ t.pc.toNat = nnn.toNat + (s.readV 0).toNat ∧ FrameExcept [.pc] s t

/-- CALL nnn pushes `pc0 + 2` and jumps; on a full stack it takes STACK_OVERFLOW and nothing but `run` changes (R162; the fault is
the spec's decision D7). -/
def Obligations.CallResult : Prop :=
  ∀ (s : State) (nnn : Addr),
    decode (wordA 0x2 nnn) = .instr (.call nnn) ∧
    (s.sp.val < 16 →
      ∃ t, exec (.call nnn) s = .next t ∧ t.pc.toNat = nnn.toNat ∧ t.sp.val = s.sp.val + 1 ∧
        (∀ k (hk : k < 16), t.stack[k] = if k = s.sp.val then s.pc + 2#16 else s.stack[k]) ∧
        FrameExcept [.pc, .sp, .stack] s t) ∧
    (s.sp.val = 16 →
      ∃ t, exec (.call nnn) s = .next t ∧ TakesFault .stackOverflow (wordA 0x2 nnn) s t)

/-- RET pops `pc`, used as it is, and clears no entry; on an empty stack it takes STACK_UNDERFLOW and nothing but `run` changes
(R160; the fault is the spec's decision D7). -/
def Obligations.ReturnResult : Prop :=
  ∀ s : State,
    decode 0x00EE#16 = .instr .ret ∧
    (∀ k (hk : k < 16), s.sp.val = k + 1 →
      ∃ t, exec .ret s = .next t ∧ t.pc = s.stack[k] ∧ t.sp.val = k ∧ FrameExcept [.pc, .sp] s t) ∧
    (s.sp.val = 0 → ∃ t, exec .ret s = .next t ∧ TakesFault .stackUnderflow 0x00EE#16 s t)

/-- A RET with the stack as a CALL left it comes back to the word after the CALL, with the stack pointer as before it (R160,
R162; W3). -/
def Obligations.ReturnUndoesCall : Prop :=
  ∀ (s t u : State) (nnn : Addr), s.sp.val < 16 → exec (.call nnn) s = .next t → u.stack = t.stack → u.sp = t.sp →
    ∃ w, exec .ret u = .next w ∧ w.pc = s.pc + 2#16 ∧ w.sp = s.sp ∧
      ∀ k (hk : k < 16), k < s.sp.val → w.stack[k] = s.stack[k]

/-- SE Vx, nn and SNE Vx, nn: `pc0 + 4` when the condition holds, `pc0 + 2` when not, and nothing else changes: the skipped word
logs no diagnostic (R163, R164). -/
def Obligations.SkipOnImmediateResults : Prop :=
  ∀ (s : State) (x : Reg) (nn : Byte),
    (decode (wordXNN 0x3 x nn.toNat) = .instr (.seVxNn x nn) ∧
      ∃ t, exec (.seVxNn x nn) s = .next t ∧
        t.pc = (if s.readV x = nn then s.pc + 4#16 else s.pc + 2#16) ∧ FrameExcept [.pc] s t) ∧
    (decode (wordXNN 0x4 x nn.toNat) = .instr (.sneVxNn x nn) ∧
      ∃ t, exec (.sneVxNn x nn) s = .next t ∧
        t.pc = (if s.readV x = nn then s.pc + 2#16 else s.pc + 4#16) ∧ FrameExcept [.pc] s t)

/-- SE Vx, Vy and SNE Vx, Vy, in the same way; the words of these groups whose low nibble is not 0 are unmapped (R165, R166; that
the low nibble counts is the spec's decision D16, log entry 16). -/
def Obligations.SkipOnRegisterResults : Prop :=
  ∀ (s : State) (x y : Reg),
    (decode (wordXYN 0x5 x y 0x0) = .instr (.seVxVy x y) ∧
      ∃ t, exec (.seVxVy x y) s = .next t ∧
        t.pc = (if s.readV x = s.readV y then s.pc + 4#16 else s.pc + 2#16) ∧ FrameExcept [.pc] s t) ∧
    (decode (wordXYN 0x9 x y 0x0) = .instr (.sneVxVy x y) ∧
      ∃ t, exec (.sneVxVy x y) s = .next t ∧
        t.pc = (if s.readV x = s.readV y then s.pc + 2#16 else s.pc + 4#16) ∧ FrameExcept [.pc] s t) ∧
    ∀ n, 1 ≤ n → n < 16 → decode (wordXYN 0x5 x y n) = .unmapped (wordXYN 0x5 x y n) ∧
      decode (wordXYN 0x9 x y n) = .unmapped (wordXYN 0x9 x y n)

/-- An instruction of a running machine that takes no fault leaves `pc0 + 2`, or `pc0 + 4` if it is a skip, unless it is a jump,
a call or a return (R142). -/
def Obligations.CounterAdvancesByWords : Prop :=
  ∀ (i : Instr) (s t : State), s.run = .running → exec i s = .next t → (∀ record, t.run ≠ .faulted record) →
    t.pc = s.pc + 2#16 ∨
    (t.pc = s.pc + 4#16 ∧ ∃ (x y : Reg) (nn : Byte), i ∈ ([.seVxNn x nn, .sneVxNn x nn, .seVxVy x y, .sneVxVy x y,
      .skp x, .sknp x] : List Instr)) ∨
    ∃ nnn, i ∈ ([.jp nnn, .call nnn, .ret, .jpV0 nnn] : List Instr)

/-- The counter and the stack entries in use stay even as long as the program only jumps, calls and returns to even addresses
and `V0` is even at every JP V0 with an even `nnn` (R37). -/
def Obligations.CountersStayEven : Prop :=
  ∀ (i : Instr) (s t : State), s.EvenCounters →
    (∀ nnn, (i = .jp nnn ∨ i = .call nnn ∨ i = .jpV0 nnn) → nnn.toNat % 2 = 0) →
    (∀ nnn, i = .jpV0 nnn → (s.readV 0).toNat % 2 = 0) →
    exec i s = .next t → t.EvenCounters

/-! ## Index and memory -/

/-- LD I, nnn (R211). -/
def Obligations.LoadIndexResult : Prop :=
  ∀ (s : State) (nnn : Addr),
    decode (wordA 0xA nnn) = .instr (.ldINnn nnn) ∧
    ∃ t, exec (.ldINnn nnn) s = .next t ∧ t.index.toNat = nnn.toNat ∧ t.pc = s.pc + 2#16 ∧
      FrameExcept [.index, .pc] s t

/-- ADD I, Vx: the sum, masked to 12 bits when it exceeds 0x0FFF; VF says whether it did, and is written in both cases. LD F, Vx:
five times the whole of `V[x]`. (R212, R213; that operands are read before any write is the spec's decision D11, the glyph
table's address D5, log entries 11 and 9.) -/
def Obligations.IndexArithmeticResults : Prop :=
  ∀ (s : State) (x : Reg),
    (decode (wordXNN 0xF x 0x1E) = .instr (.addIVx x) ∧
      ∃ t, exec (.addIVx x) s = .next t ∧
        t.index.toNat = (if s.index.toNat + (s.readV x).toNat > 0x0FFF then (s.index.toNat + (s.readV x).toNat) % 4096
          else s.index.toNat + (s.readV x).toNat) ∧
        SetsRegister regF (if s.index.toNat + (s.readV x).toNat > 0x0FFF then 1#8 else 0#8) s t ∧
        t.pc = s.pc + 2#16 ∧ FrameExcept [.v, .index, .pc] s t) ∧
    (decode (wordXNN 0xF x 0x29) = .instr (.ldFVx x) ∧
      ∃ t, exec (.ldFVx x) s = .next t ∧ t.index.toNat = (s.readV x).toNat * 5 ∧ t.pc = s.pc + 2#16 ∧
        FrameExcept [.index, .pc] s t)

/-- LD B, Vx: the three decimal digits at `I`, `I + 1`, `I + 2`, each address reduced mod 4096; every other byte, and `I`, stay
(R214). -/
def Obligations.BcdStoreResult : Prop :=
  ∀ (s : State) (x : Reg),
    decode (wordXNN 0xF x 0x33) = .instr (.ldBVx x) ∧
    ∃ t, exec (.ldBVx x) s = .next t ∧
      (t.mem.read (wrapAddr (s.index.toNat + 0))).toNat = (s.readV x).toNat / 100 ∧
      (t.mem.read (wrapAddr (s.index.toNat + 1))).toNat = (s.readV x).toNat / 10 % 10 ∧
      (t.mem.read (wrapAddr (s.index.toNat + 2))).toNat = (s.readV x).toNat % 10 ∧
      (∀ a, (∀ k < 3, wrapAddr a ≠ wrapAddr (s.index.toNat + k)) → t.mem.read a = s.mem.read a) ∧
      t.pc = s.pc + 2#16 ∧ FrameExcept [.mem, .pc] s t

/-- LD [I], Vx: V0..Vx at `I`, `I + 1`, ..., each address reduced mod 4096; every other byte, and `I`, stay (R215; that `I` stays
is the spec's decision D12, log entry 14). -/
def Obligations.RegisterDumpResult : Prop :=
  ∀ (s : State) (x : Reg),
    decode (wordXNN 0xF x 0x55) = .instr (.ldMemVx x) ∧
    ∃ t, exec (.ldMemVx x) s = .next t ∧
      (∀ r : Reg, r.val ≤ x.val → t.mem.read (wrapAddr (s.index.toNat + r.val)) = s.readV r) ∧
      (∀ a, (∀ k ≤ x.val, wrapAddr a ≠ wrapAddr (s.index.toNat + k)) → t.mem.read a = s.mem.read a) ∧
      t.pc = s.pc + 2#16 ∧ FrameExcept [.mem, .pc] s t

/-- LD Vx, [I]: V0..Vx from `I`, `I + 1`, ..., each address reduced mod 4096; the other registers, memory and `I` stay (R216; that
`I` stays is the spec's decision D12, log entry 14). -/
def Obligations.RegisterLoadFromMemoryResult : Prop :=
  ∀ (s : State) (x : Reg),
    decode (wordXNN 0xF x 0x65) = .instr (.ldVxMem x) ∧
    ∃ t, exec (.ldVxMem x) s = .next t ∧
      (∀ r : Reg, t.readV r =
        if r.val ≤ x.val then s.mem.read (wrapAddr (s.index.toNat + r.val)) else s.readV r) ∧
      t.pc = s.pc + 2#16 ∧ FrameExcept [.v, .pc] s t

/-- Registers stored with LD [I], Vx are loaded back by LD Vx, [I] whenever memory and `I` are still as the store left them,
whatever the registers hold by then (R215, R216, R217). -/
def Obligations.LoadRestoresDump : Prop :=
  ∀ (s t u : State) (x : Reg), exec (.ldMemVx x) s = .next t → (∀ a, u.mem.read a = t.mem.read a) → u.index = t.index →
    ∃ w, exec (.ldVxMem x) u = .next w ∧ ∀ r : Reg, r.val ≤ x.val → w.readV r = s.readV r

/-- A word stored over the next instruction is the one the next step runs, with no fence (R99, R316). -/
def Obligations.StoreIsSeenByNextFetch : Prop :=
  ∀ (s t : State) (x : Reg) (k : Nat) (hk : k + 1 < 16) (i : Instr), s.schedule = [] → s.run = .running → k + 1 ≤ x.val →
    wrapAddr (s.index.toNat + k) = wrapAddr (s.pc + 2#16).toNat → exec (.ldMemVx x) s = .next t →
    decode (wordOfBytes (s.readV ⟨k, by omega⟩) (s.readV ⟨k + 1, hk⟩)) = .instr i → step t = exec i t

/-- Memory in its canonical form is given by what it reads: two such memories that read alike everywhere are the same data
(the model's form of R80). -/
def Obligations.MemoriesReadingAlikeAreEqual : Prop :=
  ∀ m m' : Memory, m.wf = true → m'.wf = true → (∀ a, m.read a = m'.read a) → m = m'

/-! ## Display -/

/-- CLS: every pixel 0, and nothing else changes (R230). -/
def Obligations.ClearScreenResult : Prop :=
  ∀ s : State,
    decode 0x00E0#16 = .instr .cls ∧
    ∃ t, exec .cls s = .next t ∧ (∀ px py, t.fb.pixel px py = false) ∧ t.pc = s.pc + 2#16 ∧ FrameExcept [.fb, .pc] s t

/-- DRW Vx, Vy, n pixel by pixel: the loops of plots XOR onto each pixel the sprite's bit that falls on it, the origin wrapped and
the sprite clipped; VF is 1 exactly when a lit pixel met a 1 bit, and is written on every DRW (R231, R232, R233; the order of
the bits and the orientation are the spec's decisions D24 and D25, log entry 24). -/
def Obligations.DrawIsPixelwiseXor : Prop :=
  ∀ (s : State) (x y : Reg) (n : Fin 16),
    ∃ (t : State) (hit : Bool), exec (.drw x y n) s = .next t ∧
      (∀ px py, t.fb.pixel px py = (s.fb.pixel px py ^^
        spritePixel s.mem s.index ((s.readV x).toNat % 64) ((s.readV y).toNat % 32) n.val px py)) ∧
      (hit = true ↔ ∃ px py, s.fb.pixel px py = true ∧
        spritePixel s.mem s.index ((s.readV x).toNat % 64) ((s.readV y).toNat % 32) n.val px py = true) ∧
      SetsRegister regF (if hit then 1#8 else 0#8) s t ∧ t.pc = s.pc + 2#16 ∧ FrameExcept [.v, .fb, .pc] s t

/-- Drawing the same sprite again at the same origin gives the framebuffer back; over an empty background the second draw
reports a collision exactly when the sprite has a 1 bit on the grid (R231, W4; log entry 25). -/
def Obligations.DrawTwiceRestoresFramebuffer : Prop :=
  ∀ (s t u : State) (x y : Reg) (n : Fin 16), exec (.drw x y n) s = .next t → u.fb = t.fb →
    (∀ a, u.mem.read a = s.mem.read a) → u.index = s.index → u.readV x = s.readV x → u.readV y = s.readV y →
    ∃ w, exec (.drw x y n) u = .next w ∧ w.fb = s.fb ∧
      (s.fb = Framebuffer.blank → (w.readV regF = 1#8 ↔ ∃ px py, t.fb.pixel px py = true))

/-! ## Keys and timers -/

/-- SKP and SKNP: a register value 0..15 names a key and the skip depends on it alone; a value above 15 takes KEY_RANGE and nothing
but `run` changes (R251, R252; the fault is the spec's decision D13, log entry 12). -/
def Obligations.KeySkipResults : Prop :=
  ∀ (s : State) (x : Reg),
    (decode (wordXNN 0xE x 0x9E) = .instr (.skp x) ∧
      (∀ k : Key, (s.readV x).toNat = k.val → ∃ t, exec (.skp x) s = .next t ∧
        t.pc = (if s.keyPressed k = true then s.pc + 4#16 else s.pc + 2#16) ∧ FrameExcept [.pc] s t) ∧
      (15 < (s.readV x).toNat → ∃ t, exec (.skp x) s = .next t ∧ TakesFault .keyRange (wordXNN 0xE x 0x9E) s t)) ∧
    (decode (wordXNN 0xE x 0xA1) = .instr (.sknp x) ∧
      (∀ k : Key, (s.readV x).toNat = k.val → ∃ t, exec (.sknp x) s = .next t ∧
        t.pc = (if s.keyPressed k = true then s.pc + 2#16 else s.pc + 4#16) ∧ FrameExcept [.pc] s t) ∧
      (15 < (s.readV x).toNat → ∃ t, exec (.sknp x) s = .next t ∧ TakesFault .keyRange (wordXNN 0xE x 0xA1) s t))

/-- LD Vx, K: with a key pressed it completes at once with the lowest-numbered pressed key; with none it starts the wait, `pc` at
`pc0 + 2` and every register unchanged (R254, R256; the choice of key is the spec's decision D14, log entry 13). -/
def Obligations.KeyLoadOrWait : Prop :=
  ∀ (s : State) (x : Reg),
    decode (wordXNN 0xF x 0x0A) = .instr (.ldVxK x) ∧
    ((∃ k, s.keyPressed k = true) →
      ∃ (t : State) (k : Key), exec (.ldVxK x) s = .next t ∧
        s.keyPressed k = true ∧ (∀ j, j < k → s.keyPressed j = false) ∧
        SetsRegister x (BitVec.ofNat 8 k.val) s t ∧ t.pc = s.pc + 2#16 ∧ FrameExcept [.v, .pc] s t) ∧
    ((∀ k, s.keyPressed k = false) →
      ∃ t, exec (.ldVxK x) s = .next t ∧ t.run = .waitKey x ∧ t.pc = s.pc + 2#16 ∧ FrameExcept [.run, .pc] s t)

/-- In `WAIT_KEY(x)` the core's step is enabled exactly when some key is pressed: it then writes the lowest pressed key to
`V[x]` and goes on running; it fetches nothing and leaves `pc` (R257). -/
def Obligations.KeyWaitCompletes : Prop :=
  ∀ (s : State) (x : Reg), s.schedule = [] → s.run = .waitKey x →
    ((∃ k, s.keyPressed k = true) →
      ∃ (t : State) (k : Key), step s = .next t ∧ s.keyPressed k = true ∧ (∀ j, j < k → s.keyPressed j = false) ∧
        SetsRegister x (BitVec.ofNat 8 k.val) s t ∧ t.run = .running ∧ FrameExcept [.v, .run] s t) ∧
    ((∀ k, s.keyPressed k = false) → step s = .fault (.waitingForKey x) ∧ s.stepTransaction = (.notEnabled, s))

/-- LD DT, Vx and LD ST, Vx: the value copied whole, `t_ref` not moved, and the sound active exactly when the value set is not 0
(R259, R260; that `t_ref` stays is what the spec derives in R259). -/
def Obligations.TimerSetResults : Prop :=
  ∀ (s : State) (x : Reg),
    (decode (wordXNN 0xF x 0x15) = .instr (.ldDtVx x) ∧
      ∃ t, exec (.ldDtVx x) s = .next t ∧ t.dt = s.readV x ∧ t.pc = s.pc + 2#16 ∧ FrameExcept [.dt, .pc] s t) ∧
    (decode (wordXNN 0xF x 0x18) = .instr (.ldStVx x) ∧
      ∃ t, exec (.ldStVx x) s = .next t ∧ t.st = s.readV x ∧ (t.soundActive = true ↔ (s.readV x).toNat ≠ 0) ∧
        t.pc = s.pc + 2#16 ∧ FrameExcept [.st, .pc] s t)

/-- `advance_timers(now)`: with `k` whole ticks of 1/60 s since `t_ref`, both counters lose `k`, floored at 0, and `t_ref` moves by
the consumed time only; with no whole tick nothing changes (R280). -/
def Obligations.TimersDecayByWholeTicks : Prop :=
  ∀ (s : State) (now : Rat), ∃ t, s.transact (.advanceTimers now) = (.done, t) ∧
    (⌊(now - s.tRef) * 60⌋ < 1 → t = s) ∧
    (∀ k : Nat, 1 ≤ k → ⌊(now - s.tRef) * 60⌋ = (k : Int) →
      t.dt.toNat = max 0 ((s.dt.toNat : Int) - k) ∧ t.st.toNat = max 0 ((s.st.toNat : Int) - k) ∧
      t.tRef = s.tRef + (k : Rat) / 60 ∧ FrameExcept [.dt, .st, .tRef] s t)

/-- Coalescing: one call that covers `a + b` tick intervals leaves the very state that a call covering `a` and then one covering
`b` leave, `t_ref` included (R281 (d)). -/
def Obligations.TimerCallsCoalesce : Prop :=
  ∀ (s : State) (a b : Nat),
    (s.advanceTimers (s.tRef + (a : Rat) / 60)).advanceTimers (s.tRef + (a + b : Rat) / 60) =
      s.advanceTimers (s.tRef + (a + b : Rat) / 60)

/-- Between explicit sets the counters never increase: if a step leaves a timer higher, the core ran LD DT, Vx (or LD ST, Vx) and
the timer holds that register's value (R40, R41, R281 (a)). -/
def Obligations.TimersNeverIncreaseUnlessSet : Prop :=
  ∀ s t : State, step s = .next t →
    (t.dt.toNat ≤ s.dt.toNat ∨
      s.run = .running ∧ ∃ x, decode s.fetchWord = .instr (.ldDtVx x) ∧ t.dt = s.readV x) ∧
    (t.st.toNat ≤ s.st.toNat ∨
      s.run = .running ∧ ∃ x, decode s.fetchWord = .instr (.ldStVx x) ∧ t.st = s.readV x)

/-! ## Faults -/

/-- A fault is precise and names its instruction. When the word at `pc` raises a cause, the step changes nothing but `run`, which
becomes `FAULTED((cause, pc0, op))`, and returns `Fault(rec)`; and a step of a running machine ends in `FAULTED` in no other way
(R146, R271, R272; which faults there are and what one leaves are the spec's decisions D7, D8 and D13). -/
def Obligations.FaultIsPreciseAndNamesItsWord : Prop :=
  ∀ s : State, s.schedule = [] → s.run = .running →
    (∀ cause, s.Raises cause →
      ∃ t, step s = .next t ∧ s.stepTransaction = (.fault ⟨cause, s.pc, s.fetchWord⟩, t) ∧
        TakesFault cause s.fetchWord s t) ∧
    ∀ (t : State) (record : FaultRecord), step s = .next t → t.run = .faulted record →
      s.Raises record.cause ∧ record.pc0 = s.pc ∧ record.op = s.fetchWord

/-- In `FAULTED(rec)` a `step()` changes nothing and returns the same `Fault(rec)` (R147, R274). -/
def Obligations.FaultedStepChangesNothing : Prop :=
  ∀ (s : State) (record : FaultRecord), s.run = .faulted record →
    s.stepTransaction = (.fault record, s) ∧ (s.schedule = [] → step s = .fault (.stopped record))

/-- RESET is the only transaction that leaves `FAULTED`, and the only one besides its completion on a pressed key that ends a key
wait (R147, R276, R310). -/
def Obligations.OnlyResetLeavesFaultedOrAbandonsWait : Prop :=
  ∀ s t : State, step s = .next t →
    (∀ record, s.run = .faulted record → t.run = .faulted record ∨ ∃ t0 r rest, s.schedule = .reset t0 r :: rest) ∧
    (∀ x, s.run = .waitKey x → t.run = .waitKey x ∨ (t.run = .running ∧ ∃ k, s.keyPressed k = true) ∨
      ∃ t0 r rest, s.schedule = .reset t0 r :: rest)

/-- Whenever the core stands in `FAULTED(rec)`, `rec` fits the state: `pc0` is `pc`, and the recorded instruction raises the
recorded cause on this very state. Every step of every agent keeps this (R271, R272, R275). -/
def Obligations.EveryStepKeepsRecordFitting : Prop :=
  ∀ s t : State, s.RecordFits → step s = .next t → t.RecordFits

/-! ## The machine as a whole -/

/-- Every step of every agent keeps: `I <= 0x0FFF` (R34, which the spec derives), memory in its canonical form, `t_ref` not negative
(R42), the rate positive (R49). That a RESET with a negative time or a non-positive rate is refused is the model's choice (log
entry 7). -/
def Obligations.EveryStepKeepsInvariant : Prop :=
  ∀ s t : State, s.Inv → step s = .next t → t.Inv

/-- The state after `RESET(T0, R)` has the two invariants, whatever `T0 >= 0` and `R > 0` are (R34, R42, R49, R311), and so has
`State.reset`, whose `T0 = 0` and `R = 500` are the model's choice (log entry 1). -/
def Obligations.ResetHasInvariants : Prop :=
  (∀ t0 r : Rat, 0 ≤ t0 → 0 < r → (State.resetWith t0 r).Inv ∧ (State.resetWith t0 r).RecordFits) ∧
    State.reset.Inv ∧ State.reset.RecordFits

/-- Who writes what, for every part of the state but `pc`, which every instruction moves (CounterAdvancesByWords). A general
register is written only by an instruction that has it as a destination or as its flag (`Writes`); memory by LD B and LD [I]
only, the framebuffer by CLS and DRW only, the stack by CALL and RET only, `I` by LD I, ADD I and LD F only, `DT` by LD DT and
`ST` by LD ST only, the diagnostic log by SYS only (of the instructions: the other unmapped words are none), `run` by a LD Vx, K
that finds no key and by the faults of CALL, RET, SKP and SKNP only, the model's count of draws (log entry 3) by RND only, and the
keys, `t_ref`, the rate, the pacing stamp and the schedule by no instruction (R30, R31, R33, R38, R40, R41, R42, R44, R45, R47, R48,
R49, R84, R234). -/
def Obligations.InstructionsWriteOnlyTheirState : Prop :=
  ∀ (i : Instr) (s t : State), exec i s = .next t →
    (∀ r, t.readV r ≠ s.readV r → Writes r i) ∧
    (t.mem ≠ s.mem → ∃ x, i = .ldBVx x ∨ i = .ldMemVx x) ∧
    (t.fb ≠ s.fb → i = .cls ∨ ∃ x y n, i = .drw x y n) ∧
    (t.stack ≠ s.stack ∨ t.sp ≠ s.sp → i = .ret ∨ ∃ nnn, i = .call nnn) ∧
    (t.index ≠ s.index → ∃ nnn x, i = .ldINnn nnn ∨ i = .addIVx x ∨ i = .ldFVx x) ∧
    (t.dt ≠ s.dt → ∃ x, i = .ldDtVx x) ∧ (t.st ≠ s.st → ∃ x, i = .ldStVx x) ∧
    (t.diag ≠ s.diag → ∃ nnn, i = .sysNnn nnn) ∧
    (t.run ≠ s.run →
      (∃ x, i = .ldVxK x ∧ t.run = .waitKey x ∧ ∀ k, s.keyPressed k = false) ∨
      ∃ record, t.run = .faulted record ∧ (i = .ret ∨ ∃ nnn x, i = .call nnn ∨ i = .skp x ∨ i = .sknp x)) ∧
    (t.draws ≠ s.draws → ∃ x nn, i = .rndVxNn x nn) ∧
    t.keys = s.keys ∧ t.tRef = s.tRef ∧ t.rate = s.rate ∧ t.tLast = s.tLast ∧ t.schedule = s.schedule

/-- No instruction reads `ST`, `t_ref`, the diagnostic log, the rate or the pacing stamp: from two states that agree on all
the rest, an instruction leaves two states that agree on all the rest (R41, R42, R48, R49). -/
def Obligations.ProgramCannotObserveHostState : Prop :=
  ∀ (i : Instr) (s s' t : State), AgreeOnWhatIsRead s s' → exec i s = .next t →
    ∃ t', exec i s' = .next t' ∧ AgreeOnWhatIsRead t t'

/-- Stack entries at and above `SP` cannot be observed: no instruction's effect depends on them, so that what reset leaves in
the stack is unobservable (R38). -/
def Obligations.DeadStackEntriesUnobservable : Prop :=
  ∀ (i : Instr) (s s' t : State), AgreeBelowSp s s' → exec i s = .next t →
    ∃ t', exec i s' = .next t' ∧ AgreeBelowSp t t'

/-- At the end of a run, with nothing scheduled, every further step leaves the whole state as it is (R150). -/
def Obligations.EndOfRunStays : Prop :=
  ∀ s : State, s.schedule = [] → s.AtEnd → step s = .next s

/-- Every interleaving of the agents' transactions is a run of the machine: with the list `ts` scheduled, as many steps take
exactly the transactions of `ts`, one after the other, each on the whole state the one before left (R53, R54; the schedule is
the model's own field, log entry 4). -/
def Obligations.ScheduleRunsEveryInterleaving : Prop :=
  ∀ (ts : List Transaction) (s : State),
    Host.Core.run Sys2Proof.core ts.length (s.setSchedule ts) =
      .next (ts.foldl (fun u tx => (u.transact tx).2) (s.setSchedule []))

/-! ## The host -/

/-- `RESET(T0, R)` from any state, a faulted or a waiting one included, leaves every piece of state at its reset value, the glyph
table at 0x000..0x04F and zero in every other byte (R311, R312; the glyphs are the spec's decision D5, log entry 9). -/
def Obligations.ResetFromAnyState : Prop :=
  ∀ (s : State) (t0 r : Rat), 0 ≤ t0 → 0 < r →
    ∃ t, s.transact (.reset t0 r) = (.done, t) ∧ (∀ x, t.readV x = 0#8) ∧ t.index = 0#16 ∧ t.pc = 0x200#16 ∧
      (∀ k (hk : k < 16), t.stack[k] = 0#16) ∧ t.sp = 0 ∧ t.dt = 0#8 ∧ t.st = 0#8 ∧ t.soundActive = false ∧
      t.tRef = t0 ∧ (∀ px py, t.fb.pixel px py = false) ∧ (∀ k, t.keyPressed k = false) ∧ t.run = .running ∧
      t.diag = [] ∧ t.rate = r ∧
      (List.range 80).map (fun a => (t.mem.read a).toNat) =
        [0xF0, 0x90, 0x90, 0x90, 0xF0, 0x20, 0x60, 0x20, 0x20, 0x70, 0xF0, 0x10, 0xF0, 0x80, 0xF0, 0xF0, 0x10, 0xF0, 0x10, 0xF0] ++
        [0x90, 0x90, 0xF0, 0x10, 0x10, 0xF0, 0x80, 0xF0, 0x10, 0xF0, 0xF0, 0x80, 0xF0, 0x90, 0xF0, 0xF0, 0x10, 0x20, 0x40, 0x40] ++
        [0xF0, 0x90, 0xF0, 0x90, 0xF0, 0xF0, 0x90, 0xF0, 0x10, 0xF0, 0xF0, 0x90, 0xF0, 0x90, 0x90, 0xE0, 0x90, 0xE0, 0x90, 0xE0] ++
        [0xF0, 0x80, 0x80, 0x80, 0xF0, 0xE0, 0x90, 0x90, 0x90, 0xE0, 0xF0, 0x80, 0xF0, 0x80, 0xF0, 0xF0, 0x80, 0xF0, 0x80, 0x80] ∧
      ∀ a, 80 ≤ a → a < 4096 → t.mem.read a = 0#8

/-- `load_program(bytes)`: more than 3584 bytes are refused with `CapacityError` and no change; otherwise the image lies at 0x200,
every other byte and every other part of the state is as before (R93). -/
def Obligations.LoadProgramIsAllOrNothing : Prop :=
  ∀ (s : State) (bytes : List Byte),
    (3584 < bytes.length → s.transact (.loadProgram bytes) = (.capacityError, s)) ∧
    (bytes.length ≤ 3584 → ∃ t, s.transact (.loadProgram bytes) = (.ok, t) ∧
      (∀ i (hi : i < bytes.length), t.mem.read (0x200 + i) = bytes[i]) ∧
      (∀ a, a < 4096 → (a < 0x200 ∨ 0x200 + bytes.length ≤ a) → t.mem.read a = s.mem.read a) ∧ FrameExcept [.mem] s t)

/-- `set_key_state(key, pressed)` sets that key and changes nothing else; a key outside 0..15 is refused with no change (R286). -/
def Obligations.SetKeyStateResult : Prop :=
  ∀ (s : State) (key : Int) (pressed : Bool),
    (0 ≤ key ∧ key ≤ 15 → ∃ t, s.transact (.setKeyState key pressed) = (.done, t) ∧
      (∀ j : Key, t.keyPressed j = if (j.val : Int) = key then pressed else s.keyPressed j) ∧ FrameExcept [.keys] s t) ∧
    (¬ (0 ≤ key ∧ key ≤ 15) → s.transact (.setKeyState key pressed) = (.refused, s))

/-- `set_instruction_rate(hz)` sets the rate for `hz > 0` and changes nothing else; any other `hz` is refused with no change (R331). -/
def Obligations.SetInstructionRateResult : Prop :=
  ∀ (s : State) (hz : Rat),
    (0 < hz → ∃ t, s.transact (.setInstructionRate hz) = (.done, t) ∧ t.rate = hz ∧ FrameExcept [.rate] s t) ∧
    (hz ≤ 0 → s.transact (.setInstructionRate hz) = (.refused, s))

/-- Inspection changes nothing and answers a view of the state: the registers, `I`, `pc`, `SP`, the timers, `run`, memory and the
diagnostic log as they are, and the first `SP` stack entries, those in use, and no others. So it answers the same on two states
that differ at most in the entries at and above `SP` (R290; the atomic read is the spec's decision D22). -/
def Obligations.InspectionShowsOnlyLiveStack : Prop :=
  (∀ s : State, ∃ view : Inspection, s.transact .inspect = (.inspection view, s) ∧
    view.v = s.v ∧ view.index = s.index ∧ view.pc = s.pc ∧ view.sp = s.sp ∧ view.dt = s.dt ∧ view.st = s.st ∧
    view.run = s.run ∧ view.mem = s.mem ∧ view.diag = s.diag ∧
    view.liveStack.length = s.sp.val ∧
    ∀ k (hk : k < 16), k < s.sp.val → view.liveStack[k]? = some s.stack[k]) ∧
  ∀ s s' : State, AgreeBelowSp s s' → s'.mem = s.mem → (s'.transact .inspect).1 = (s.transact .inspect).1
end

