-- ==== Sys2Proof/Laws/Decode.lean ====
section
/-! SUPPORT. What each field of a word is, as a number, and what each operand adds to it (30_encoding.md R111, R120). -/

namespace Sys2Proof

@[simp] theorem Word.toNat_nn (op : Word) : (Word.nn op).toNat = op.toNat % 256 := by simp [Word.nn]

@[simp] theorem Word.toNat_nnn (op : Word) : (Word.nnn op).toNat = op.toNat % 4096 := by simp [Word.nnn]

@[simp] theorem toNat_putX (x : Reg) : (putX x).toNat = x.val * 256 := by
  have := x.isLt
  simp only [putX, BitVec.toNat_ofNat]; omega

@[simp] theorem toNat_putY (y : Reg) : (putY y).toNat = y.val * 16 := by
  have := y.isLt
  simp only [putY, BitVec.toNat_ofNat]; omega

@[simp] theorem toNat_putN (n : Fin 16) : (putN n).toNat = n.val := by
  have := n.isLt
  simp only [putN, BitVec.toNat_ofNat]; omega

@[simp] theorem toNat_putNn (nn : Byte) : (putNn nn).toNat = nn.toNat := by
  have := nn.isLt
  simp only [putNn, BitVec.toNat_setWidth]; omega

@[simp] theorem toNat_putNnn (nnn : Addr) : (putNnn nnn).toNat = nnn.toNat := by
  have := nnn.isLt
  simp only [putNnn, BitVec.toNat_setWidth]; omega

/-- The two bytes of a word, put together again, are the word (R86, R120). -/
@[simp] theorem wordOfBytes_bytes (op : Word) : wordOfBytes (Word.hiByte op) (Word.loByte op) = op := by
  have := op.isLt
  apply BitVec.eq_of_toNat_eq
  simp only [wordOfBytes, Word.hiByte, Word.loByte, BitVec.toNat_append, BitVec.toNat_ofNat, Nat.shiftLeft_eq]
  rw [Nat.mul_comm, ← Nat.two_pow_add_eq_or_of_lt (Nat.mod_lt _ (by decide))]
  omega

/-- Every word decodes: two bytes are read, whatever they are (R110, R114). -/
theorem decodeBytes_cons (hi lo : Byte) (rest : List Byte) :
    decodeBytes (hi :: lo :: rest) = .word (decode (wordOfBytes hi lo)) rest := rfl

theorem Word.x_eq {op : Word} {x : Reg} (h : op.toNat / 256 % 16 = x.val) : Word.x op = x := Fin.ext h

theorem Word.y_eq {op : Word} {y : Reg} (h : op.toNat / 16 % 16 = y.val) : Word.y op = y := Fin.ext h

theorem Word.n_eq {op : Word} {n : Fin 16} (h : op.toNat % 16 = n.val) : Word.n op = n := Fin.ext h

theorem Word.nn_eq {op : Word} {nn : Byte} (h : op.toNat % 256 = nn.toNat) : Word.nn op = nn :=
  BitVec.eq_of_toNat_eq (by simpa using h)

theorem Word.nnn_eq {op : Word} {nnn : Addr} (h : op.toNat % 4096 = nnn.toNat) : Word.nnn op = nnn :=
  BitVec.eq_of_toNat_eq (by simpa using h)

/-! What decode answers for each high nibble (R114). -/

variable {op : Word}

theorem decode_h0 (h : Word.h op = 0x0) : decode op = decodeGroup0 op := by simp [decode, h]
theorem decode_h1 (h : Word.h op = 0x1) : decode op = .instr (.jp (Word.nnn op)) := by simp [decode, h]
theorem decode_h2 (h : Word.h op = 0x2) : decode op = .instr (.call (Word.nnn op)) := by simp [decode, h]
theorem decode_h3 (h : Word.h op = 0x3) : decode op = .instr (.seVxNn (Word.x op) (Word.nn op)) := by simp [decode, h]
theorem decode_h4 (h : Word.h op = 0x4) : decode op = .instr (.sneVxNn (Word.x op) (Word.nn op)) := by simp [decode, h]
theorem decode_h5 (h : Word.h op = 0x5) :
    decode op = if (Word.n op).val = 0 then .instr (.seVxVy (Word.x op) (Word.y op)) else .unmapped op := by
  simp [decode, h]
theorem decode_h6 (h : Word.h op = 0x6) : decode op = .instr (.ldVxNn (Word.x op) (Word.nn op)) := by simp [decode, h]
theorem decode_h7 (h : Word.h op = 0x7) : decode op = .instr (.addVxNn (Word.x op) (Word.nn op)) := by simp [decode, h]
theorem decode_h8 (h : Word.h op = 0x8) : decode op = decodeGroup8 op := by simp [decode, h]
theorem decode_h9 (h : Word.h op = 0x9) :
    decode op = if (Word.n op).val = 0 then .instr (.sneVxVy (Word.x op) (Word.y op)) else .unmapped op := by
  simp [decode, h]
theorem decode_hA (h : Word.h op = 0xA) : decode op = .instr (.ldINnn (Word.nnn op)) := by simp [decode, h]
theorem decode_hB (h : Word.h op = 0xB) : decode op = .instr (.jpV0 (Word.nnn op)) := by simp [decode, h]
theorem decode_hC (h : Word.h op = 0xC) : decode op = .instr (.rndVxNn (Word.x op) (Word.nn op)) := by simp [decode, h]
theorem decode_hD (h : Word.h op = 0xD) :
    decode op = .instr (.drw (Word.x op) (Word.y op) (Word.n op)) := by simp [decode, h]
theorem decode_hE (h : Word.h op = 0xE) : decode op = decodeGroupE op := by simp [decode, h]
theorem decode_hF (h : Word.h op = 0xF) : decode op = decodeGroupF op := by simp [decode, h]

end Sys2Proof
end

