-- ==== Sys2Proof/Laws/Memory.lean ====
section
/-! SUPPORT. The laws of memory: a read after a write, and that every operation keeps the canonical form (20_memory.md R81 to
R83). -/

namespace Sys2Proof.Machine

theorem wrapAddr_lt (a : Nat) : wrapAddr a < Config.memSize := Nat.mod_lt _ (by decide)

@[simp] theorem wrapAddr_wrapAddr (a : Nat) : wrapAddr (wrapAddr a) = wrapAddr a := Nat.mod_mod _ _

theorem wrapAddr_add_wrap (a b : Nat) : wrapAddr (wrapAddr a + b) = wrapAddr (a + b) := by
  simp [wrapAddr, Nat.add_mod]

/-- A read sees only the reduced address (R83). -/
@[simp] theorem Memory.read_wrapAddr (m : Memory) (a : Nat) : m.read (wrapAddr a) = m.read a := by
  simp [Memory.read]

theorem Memory.read_congr (m : Memory) {a a' : Nat} (h : wrapAddr a = wrapAddr a') : m.read a = m.read a' := by
  simp [Memory.read, h]

@[simp] theorem Memory.find?_nil (a : Nat) : Memory.find? [] a = none := rfl

theorem Memory.find?_erase (m : Memory) (k a : Nat) :
    (m.erase k).find? a = if a = k then none else m.find? a := by
  induction m with
  | nil => simp [Memory.erase, Memory.find?]
  | cons c rest ih =>
    obtain ⟨j, b⟩ := c
    by_cases hj : j = k
    · subst hj
      by_cases ha : j = a
      · subst ha; simp [Memory.erase, ih]
      · simp [Memory.erase, Memory.find?, ih, ha]
    · by_cases ha : j = a
      · subst ha; simp [Memory.erase, Memory.find?, hj]
      · simp [Memory.erase, Memory.find?, hj, ha, ih]

theorem Memory.find?_insert (m : Memory) (k a : Nat) (b : Byte) :
    (m.insert k b).find? a = if a = k then some b else m.find? a := by
  induction m with
  | nil => simp [Memory.insert, Memory.find?, eq_comm]
  | cons c rest ih =>
    obtain ⟨j, c⟩ := c
    by_cases hlt : k < j
    · simp [Memory.insert, hlt, Memory.find?, eq_comm]
    · by_cases hj : j = k
      · subst hj
        by_cases ha : a = j
        · subst ha; simp [Memory.insert, Memory.find?]
        · simp [Memory.insert, Memory.find?, Ne.symm ha, ha]
      · by_cases ha : j = a
        · subst ha; simp [Memory.insert, hlt, hj, Memory.find?]
        · simp [Memory.insert, hlt, hj, Memory.find?, ha, ih]

/-- A read after a write: the byte written at its own (reduced) address, the byte before everywhere else (R81, R82). -/
theorem Memory.read_write (m : Memory) (a a' : Nat) (b : Byte) :
    (m.write a b).read a' = if wrapAddr a' = wrapAddr a then b else m.read a' := by
  by_cases hb : b = Memory.initial (wrapAddr a)
  · by_cases ha : wrapAddr a' = wrapAddr a
    · simp [Memory.write, ← hb, Memory.read, Memory.find?_erase, ha]
    · simp [Memory.write, ← hb, Memory.read, Memory.find?_erase, ha]
  · by_cases ha : wrapAddr a' = wrapAddr a
    · simp [Memory.write, hb, Memory.read, Memory.find?_insert, ha]
    · simp [Memory.write, hb, Memory.read, Memory.find?_insert, ha]

@[simp] theorem Memory.read_write_same (m : Memory) (a : Nat) (b : Byte) : (m.write a b).read a = b := by
  simp [Memory.read_write]

/-- A string of stores leaves every address that is none of theirs. -/
theorem Memory.read_storeBytes_off (bs : List Byte) (m : Memory) (a a' : Nat)
    (h : ∀ k < bs.length, wrapAddr a' ≠ wrapAddr (a + k)) : (m.storeBytes a bs).read a' = m.read a' := by
  induction bs generalizing m a with
  | nil => rfl
  | cons b rest ih =>
    have h0 : wrapAddr a' ≠ wrapAddr a := by simpa using h 0 (by simp)
    have hrest : ∀ k < rest.length, wrapAddr a' ≠ wrapAddr (a + 1 + k) := by
      intro k hk
      have := h (k + 1) (by simpa using hk)
      rwa [show a + 1 + k = a + (k + 1) by omega]
    simp [Memory.storeBytes, ih (m.write a b) (a + 1) hrest, Memory.read_write, h0]

/-- A string of at most 4096 stores leaves each of its bytes at its own address (R83, R210). -/
theorem Memory.read_storeBytes_at (bs : List Byte) (m : Memory) (a k : Nat) (hk : k < bs.length)
    (hlen : bs.length ≤ Config.memSize) : (m.storeBytes a bs).read (a + k) = bs[k] := by
  induction bs generalizing m a k with
  | nil => simp at hk
  | cons b rest ih =>
    have hlen' : rest.length + 1 ≤ Config.memSize := by simpa using hlen
    cases k with
    | zero =>
      have hoff : ∀ j < rest.length, wrapAddr (a + 0) ≠ wrapAddr (a + 1 + j) := by
        intro j hj
        simp only [wrapAddr, Config.memSize] at hlen' ⊢
        omega
      simp only [Memory.storeBytes]
      rw [Memory.read_storeBytes_off rest (m.write a b) (a + 1) (a + 0) hoff]
      simp
    | succ j =>
      have hj : j < rest.length := by simpa using hk
      have := ih (m.write a b) (a + 1) j hj (by omega)
      rw [show a + 1 + j = a + (j + 1) by omega] at this
      simpa [Memory.storeBytes] using this

/-! The canonical form. -/

@[simp] theorem Memory.wfFrom_nil (lo : Nat) : Memory.wfFrom lo [] = true := rfl

theorem Memory.wfFrom_cons (lo a : Nat) (b : Byte) (rest : Memory) :
    Memory.wfFrom lo ((a, b) :: rest) = true ↔
      lo ≤ a ∧ a < Config.memSize ∧ b ≠ Memory.initial a ∧ Memory.wfFrom (a + 1) rest = true := by
  simp [Memory.wfFrom, and_assoc]

theorem Memory.wfFrom_mono {lo lo' : Nat} {m : Memory} (hle : lo' ≤ lo) (h : Memory.wfFrom lo m = true) :
    Memory.wfFrom lo' m = true := by
  cases m with
  | nil => rfl
  | cons c rest =>
    obtain ⟨a, b⟩ := c
    rw [Memory.wfFrom_cons] at h ⊢
    exact ⟨Nat.le_trans hle h.1, h.2⟩

/-- Below the lowest address of a canonical list nothing is listed. -/
theorem Memory.find?_of_lt {lo : Nat} {m : Memory} (h : Memory.wfFrom lo m = true) {a : Nat} (ha : a < lo) :
    m.find? a = none := by
  induction m generalizing lo with
  | nil => rfl
  | cons c rest ih =>
    obtain ⟨k, b⟩ := c
    rw [Memory.wfFrom_cons] at h
    have hk : k ≠ a := by omega
    simp [Memory.find?, hk, ih h.2.2.2 (by omega : a < k + 1)]

theorem Memory.wfFrom_erase {lo : Nat} {m : Memory} (h : Memory.wfFrom lo m = true) (k : Nat) :
    Memory.wfFrom lo (m.erase k) = true := by
  induction m generalizing lo with
  | nil => rfl
  | cons c rest ih =>
    obtain ⟨j, b⟩ := c
    rw [Memory.wfFrom_cons] at h
    by_cases hj : j = k
    · simpa [Memory.erase, hj] using Memory.wfFrom_mono (by omega) (ih h.2.2.2)
    · simp only [Memory.erase, hj, if_false]
      exact (Memory.wfFrom_cons ..).2 ⟨h.1, h.2.1, h.2.2.1, ih h.2.2.2⟩

theorem Memory.wfFrom_insert {lo : Nat} {m : Memory} (h : Memory.wfFrom lo m = true) {k : Nat} {b : Byte}
    (hlo : lo ≤ k) (hk : k < Config.memSize) (hb : b ≠ Memory.initial k) :
    Memory.wfFrom lo (m.insert k b) = true := by
  induction m generalizing lo with
  | nil => exact (Memory.wfFrom_cons ..).2 ⟨hlo, hk, hb, rfl⟩
  | cons c rest ih =>
    obtain ⟨j, c⟩ := c
    have h' := (Memory.wfFrom_cons ..).1 h
    by_cases hlt : k < j
    · simp only [Memory.insert, hlt, if_true]
      exact (Memory.wfFrom_cons ..).2
        ⟨hlo, hk, hb, (Memory.wfFrom_cons ..).2 ⟨by omega, h'.2.1, h'.2.2.1, h'.2.2.2⟩⟩
    · by_cases hj : j = k
      · subst hj
        simp only [Memory.insert, hlt, if_false, if_true]
        exact (Memory.wfFrom_cons ..).2 ⟨hlo, hk, hb, h'.2.2.2⟩
      · simp only [Memory.insert, hlt, hj, if_false]
        exact (Memory.wfFrom_cons ..).2 ⟨h'.1, h'.2.1, h'.2.2.1, ih h'.2.2.2 (by omega)⟩

theorem Memory.wf_nil : Memory.wf [] = true := rfl

/-- A write keeps the canonical form. -/
theorem Memory.wf_write {m : Memory} (h : m.wf = true) (a : Nat) (b : Byte) : (m.write a b).wf = true := by
  by_cases hb : b = Memory.initial (wrapAddr a)
  · simpa [Memory.write, ← hb, Memory.wf] using Memory.wfFrom_erase h (wrapAddr a)
  · simpa [Memory.write, hb, Memory.wf] using Memory.wfFrom_insert h (Nat.zero_le _) (wrapAddr_lt a) hb

/-- A string of stores keeps the canonical form. -/
theorem Memory.wf_storeBytes {m : Memory} (h : m.wf = true) (a : Nat) (bs : List Byte) :
    (m.storeBytes a bs).wf = true := by
  induction bs generalizing m a with
  | nil => exact h
  | cons b rest ih => exact ih (Memory.wf_write h a b) (a + 1)

/-- Stores into memories that read alike leave memories that read alike. -/
theorem Memory.read_storeBytes_congr {m m' : Memory} (h : ∀ a, m'.read a = m.read a) (bs : List Byte) (a a' : Nat) :
    (m'.storeBytes a bs).read a' = (m.storeBytes a bs).read a' := by
  induction bs generalizing m m' a with
  | nil => exact h a'
  | cons b bs ih =>
    simp only [Memory.storeBytes]
    refine ih (fun x => ?_) _
    simp only [Memory.read_write, h]

end Sys2Proof.Machine
end

