-- ==== Sys2Proof/Laws/State.lean ====
section
/-! SUPPORT. One lemma for each field of State and each update of it, true by `rfl`, so that no proof unfolds a record update.
First the setters, then the compound operations of Machine/Ops.lean. -/

namespace Sys2Proof.Machine

variable (s : State)

@[simp] theorem State.setV_v (x : Vector Byte 16) : (s.setV x).v = x := rfl
@[simp] theorem State.setV_index (x : Vector Byte 16) : (s.setV x).index = s.index := rfl
@[simp] theorem State.setV_pc (x : Vector Byte 16) : (s.setV x).pc = s.pc := rfl
@[simp] theorem State.setV_stack (x : Vector Byte 16) : (s.setV x).stack = s.stack := rfl
@[simp] theorem State.setV_sp (x : Vector Byte 16) : (s.setV x).sp = s.sp := rfl
@[simp] theorem State.setV_dt (x : Vector Byte 16) : (s.setV x).dt = s.dt := rfl
@[simp] theorem State.setV_st (x : Vector Byte 16) : (s.setV x).st = s.st := rfl
@[simp] theorem State.setV_tRef (x : Vector Byte 16) : (s.setV x).tRef = s.tRef := rfl
@[simp] theorem State.setV_fb (x : Vector Byte 16) : (s.setV x).fb = s.fb := rfl
@[simp] theorem State.setV_keys (x : Vector Byte 16) : (s.setV x).keys = s.keys := rfl
@[simp] theorem State.setV_run (x : Vector Byte 16) : (s.setV x).run = s.run := rfl
@[simp] theorem State.setV_diag (x : Vector Byte 16) : (s.setV x).diag = s.diag := rfl
@[simp] theorem State.setV_rate (x : Vector Byte 16) : (s.setV x).rate = s.rate := rfl
@[simp] theorem State.setV_tLast (x : Vector Byte 16) : (s.setV x).tLast = s.tLast := rfl
@[simp] theorem State.setV_mem (x : Vector Byte 16) : (s.setV x).mem = s.mem := rfl
@[simp] theorem State.setV_draws (x : Vector Byte 16) : (s.setV x).draws = s.draws := rfl
@[simp] theorem State.setV_schedule (x : Vector Byte 16) : (s.setV x).schedule = s.schedule := rfl

@[simp] theorem State.setIndex_v (x : Word) : (s.setIndex x).v = s.v := rfl
@[simp] theorem State.setIndex_index (x : Word) : (s.setIndex x).index = x := rfl
@[simp] theorem State.setIndex_pc (x : Word) : (s.setIndex x).pc = s.pc := rfl
@[simp] theorem State.setIndex_stack (x : Word) : (s.setIndex x).stack = s.stack := rfl
@[simp] theorem State.setIndex_sp (x : Word) : (s.setIndex x).sp = s.sp := rfl
@[simp] theorem State.setIndex_dt (x : Word) : (s.setIndex x).dt = s.dt := rfl
@[simp] theorem State.setIndex_st (x : Word) : (s.setIndex x).st = s.st := rfl
@[simp] theorem State.setIndex_tRef (x : Word) : (s.setIndex x).tRef = s.tRef := rfl
@[simp] theorem State.setIndex_fb (x : Word) : (s.setIndex x).fb = s.fb := rfl
@[simp] theorem State.setIndex_keys (x : Word) : (s.setIndex x).keys = s.keys := rfl
@[simp] theorem State.setIndex_run (x : Word) : (s.setIndex x).run = s.run := rfl
@[simp] theorem State.setIndex_diag (x : Word) : (s.setIndex x).diag = s.diag := rfl
@[simp] theorem State.setIndex_rate (x : Word) : (s.setIndex x).rate = s.rate := rfl
@[simp] theorem State.setIndex_tLast (x : Word) : (s.setIndex x).tLast = s.tLast := rfl
@[simp] theorem State.setIndex_mem (x : Word) : (s.setIndex x).mem = s.mem := rfl
@[simp] theorem State.setIndex_draws (x : Word) : (s.setIndex x).draws = s.draws := rfl
@[simp] theorem State.setIndex_schedule (x : Word) : (s.setIndex x).schedule = s.schedule := rfl

@[simp] theorem State.setPc_v (x : Word) : (s.setPc x).v = s.v := rfl
@[simp] theorem State.setPc_index (x : Word) : (s.setPc x).index = s.index := rfl
@[simp] theorem State.setPc_pc (x : Word) : (s.setPc x).pc = x := rfl
@[simp] theorem State.setPc_stack (x : Word) : (s.setPc x).stack = s.stack := rfl
@[simp] theorem State.setPc_sp (x : Word) : (s.setPc x).sp = s.sp := rfl
@[simp] theorem State.setPc_dt (x : Word) : (s.setPc x).dt = s.dt := rfl
@[simp] theorem State.setPc_st (x : Word) : (s.setPc x).st = s.st := rfl
@[simp] theorem State.setPc_tRef (x : Word) : (s.setPc x).tRef = s.tRef := rfl
@[simp] theorem State.setPc_fb (x : Word) : (s.setPc x).fb = s.fb := rfl
@[simp] theorem State.setPc_keys (x : Word) : (s.setPc x).keys = s.keys := rfl
@[simp] theorem State.setPc_run (x : Word) : (s.setPc x).run = s.run := rfl
@[simp] theorem State.setPc_diag (x : Word) : (s.setPc x).diag = s.diag := rfl
@[simp] theorem State.setPc_rate (x : Word) : (s.setPc x).rate = s.rate := rfl
@[simp] theorem State.setPc_tLast (x : Word) : (s.setPc x).tLast = s.tLast := rfl
@[simp] theorem State.setPc_mem (x : Word) : (s.setPc x).mem = s.mem := rfl
@[simp] theorem State.setPc_draws (x : Word) : (s.setPc x).draws = s.draws := rfl
@[simp] theorem State.setPc_schedule (x : Word) : (s.setPc x).schedule = s.schedule := rfl

@[simp] theorem State.setStack_v (x : Vector Word 16) : (s.setStack x).v = s.v := rfl
@[simp] theorem State.setStack_index (x : Vector Word 16) : (s.setStack x).index = s.index := rfl
@[simp] theorem State.setStack_pc (x : Vector Word 16) : (s.setStack x).pc = s.pc := rfl
@[simp] theorem State.setStack_stack (x : Vector Word 16) : (s.setStack x).stack = x := rfl
@[simp] theorem State.setStack_sp (x : Vector Word 16) : (s.setStack x).sp = s.sp := rfl
@[simp] theorem State.setStack_dt (x : Vector Word 16) : (s.setStack x).dt = s.dt := rfl
@[simp] theorem State.setStack_st (x : Vector Word 16) : (s.setStack x).st = s.st := rfl
@[simp] theorem State.setStack_tRef (x : Vector Word 16) : (s.setStack x).tRef = s.tRef := rfl
@[simp] theorem State.setStack_fb (x : Vector Word 16) : (s.setStack x).fb = s.fb := rfl
@[simp] theorem State.setStack_keys (x : Vector Word 16) : (s.setStack x).keys = s.keys := rfl
@[simp] theorem State.setStack_run (x : Vector Word 16) : (s.setStack x).run = s.run := rfl
@[simp] theorem State.setStack_diag (x : Vector Word 16) : (s.setStack x).diag = s.diag := rfl
@[simp] theorem State.setStack_rate (x : Vector Word 16) : (s.setStack x).rate = s.rate := rfl
@[simp] theorem State.setStack_tLast (x : Vector Word 16) : (s.setStack x).tLast = s.tLast := rfl
@[simp] theorem State.setStack_mem (x : Vector Word 16) : (s.setStack x).mem = s.mem := rfl
@[simp] theorem State.setStack_draws (x : Vector Word 16) : (s.setStack x).draws = s.draws := rfl
@[simp] theorem State.setStack_schedule (x : Vector Word 16) : (s.setStack x).schedule = s.schedule := rfl

@[simp] theorem State.setSp_v (x : Fin 17) : (s.setSp x).v = s.v := rfl
@[simp] theorem State.setSp_index (x : Fin 17) : (s.setSp x).index = s.index := rfl
@[simp] theorem State.setSp_pc (x : Fin 17) : (s.setSp x).pc = s.pc := rfl
@[simp] theorem State.setSp_stack (x : Fin 17) : (s.setSp x).stack = s.stack := rfl
@[simp] theorem State.setSp_sp (x : Fin 17) : (s.setSp x).sp = x := rfl
@[simp] theorem State.setSp_dt (x : Fin 17) : (s.setSp x).dt = s.dt := rfl
@[simp] theorem State.setSp_st (x : Fin 17) : (s.setSp x).st = s.st := rfl
@[simp] theorem State.setSp_tRef (x : Fin 17) : (s.setSp x).tRef = s.tRef := rfl
@[simp] theorem State.setSp_fb (x : Fin 17) : (s.setSp x).fb = s.fb := rfl
@[simp] theorem State.setSp_keys (x : Fin 17) : (s.setSp x).keys = s.keys := rfl
@[simp] theorem State.setSp_run (x : Fin 17) : (s.setSp x).run = s.run := rfl
@[simp] theorem State.setSp_diag (x : Fin 17) : (s.setSp x).diag = s.diag := rfl
@[simp] theorem State.setSp_rate (x : Fin 17) : (s.setSp x).rate = s.rate := rfl
@[simp] theorem State.setSp_tLast (x : Fin 17) : (s.setSp x).tLast = s.tLast := rfl
@[simp] theorem State.setSp_mem (x : Fin 17) : (s.setSp x).mem = s.mem := rfl
@[simp] theorem State.setSp_draws (x : Fin 17) : (s.setSp x).draws = s.draws := rfl
@[simp] theorem State.setSp_schedule (x : Fin 17) : (s.setSp x).schedule = s.schedule := rfl

@[simp] theorem State.setDt_v (x : Byte) : (s.setDt x).v = s.v := rfl
@[simp] theorem State.setDt_index (x : Byte) : (s.setDt x).index = s.index := rfl
@[simp] theorem State.setDt_pc (x : Byte) : (s.setDt x).pc = s.pc := rfl
@[simp] theorem State.setDt_stack (x : Byte) : (s.setDt x).stack = s.stack := rfl
@[simp] theorem State.setDt_sp (x : Byte) : (s.setDt x).sp = s.sp := rfl
@[simp] theorem State.setDt_dt (x : Byte) : (s.setDt x).dt = x := rfl
@[simp] theorem State.setDt_st (x : Byte) : (s.setDt x).st = s.st := rfl
@[simp] theorem State.setDt_tRef (x : Byte) : (s.setDt x).tRef = s.tRef := rfl
@[simp] theorem State.setDt_fb (x : Byte) : (s.setDt x).fb = s.fb := rfl
@[simp] theorem State.setDt_keys (x : Byte) : (s.setDt x).keys = s.keys := rfl
@[simp] theorem State.setDt_run (x : Byte) : (s.setDt x).run = s.run := rfl
@[simp] theorem State.setDt_diag (x : Byte) : (s.setDt x).diag = s.diag := rfl
@[simp] theorem State.setDt_rate (x : Byte) : (s.setDt x).rate = s.rate := rfl
@[simp] theorem State.setDt_tLast (x : Byte) : (s.setDt x).tLast = s.tLast := rfl
@[simp] theorem State.setDt_mem (x : Byte) : (s.setDt x).mem = s.mem := rfl
@[simp] theorem State.setDt_draws (x : Byte) : (s.setDt x).draws = s.draws := rfl
@[simp] theorem State.setDt_schedule (x : Byte) : (s.setDt x).schedule = s.schedule := rfl

@[simp] theorem State.setSt_v (x : Byte) : (s.setSt x).v = s.v := rfl
@[simp] theorem State.setSt_index (x : Byte) : (s.setSt x).index = s.index := rfl
@[simp] theorem State.setSt_pc (x : Byte) : (s.setSt x).pc = s.pc := rfl
@[simp] theorem State.setSt_stack (x : Byte) : (s.setSt x).stack = s.stack := rfl
@[simp] theorem State.setSt_sp (x : Byte) : (s.setSt x).sp = s.sp := rfl
@[simp] theorem State.setSt_dt (x : Byte) : (s.setSt x).dt = s.dt := rfl
@[simp] theorem State.setSt_st (x : Byte) : (s.setSt x).st = x := rfl
@[simp] theorem State.setSt_tRef (x : Byte) : (s.setSt x).tRef = s.tRef := rfl
@[simp] theorem State.setSt_fb (x : Byte) : (s.setSt x).fb = s.fb := rfl
@[simp] theorem State.setSt_keys (x : Byte) : (s.setSt x).keys = s.keys := rfl
@[simp] theorem State.setSt_run (x : Byte) : (s.setSt x).run = s.run := rfl
@[simp] theorem State.setSt_diag (x : Byte) : (s.setSt x).diag = s.diag := rfl
@[simp] theorem State.setSt_rate (x : Byte) : (s.setSt x).rate = s.rate := rfl
@[simp] theorem State.setSt_tLast (x : Byte) : (s.setSt x).tLast = s.tLast := rfl
@[simp] theorem State.setSt_mem (x : Byte) : (s.setSt x).mem = s.mem := rfl
@[simp] theorem State.setSt_draws (x : Byte) : (s.setSt x).draws = s.draws := rfl
@[simp] theorem State.setSt_schedule (x : Byte) : (s.setSt x).schedule = s.schedule := rfl

@[simp] theorem State.setTRef_v (x : Rat) : (s.setTRef x).v = s.v := rfl
@[simp] theorem State.setTRef_index (x : Rat) : (s.setTRef x).index = s.index := rfl
@[simp] theorem State.setTRef_pc (x : Rat) : (s.setTRef x).pc = s.pc := rfl
@[simp] theorem State.setTRef_stack (x : Rat) : (s.setTRef x).stack = s.stack := rfl
@[simp] theorem State.setTRef_sp (x : Rat) : (s.setTRef x).sp = s.sp := rfl
@[simp] theorem State.setTRef_dt (x : Rat) : (s.setTRef x).dt = s.dt := rfl
@[simp] theorem State.setTRef_st (x : Rat) : (s.setTRef x).st = s.st := rfl
@[simp] theorem State.setTRef_tRef (x : Rat) : (s.setTRef x).tRef = x := rfl
@[simp] theorem State.setTRef_fb (x : Rat) : (s.setTRef x).fb = s.fb := rfl
@[simp] theorem State.setTRef_keys (x : Rat) : (s.setTRef x).keys = s.keys := rfl
@[simp] theorem State.setTRef_run (x : Rat) : (s.setTRef x).run = s.run := rfl
@[simp] theorem State.setTRef_diag (x : Rat) : (s.setTRef x).diag = s.diag := rfl
@[simp] theorem State.setTRef_rate (x : Rat) : (s.setTRef x).rate = s.rate := rfl
@[simp] theorem State.setTRef_tLast (x : Rat) : (s.setTRef x).tLast = s.tLast := rfl
@[simp] theorem State.setTRef_mem (x : Rat) : (s.setTRef x).mem = s.mem := rfl
@[simp] theorem State.setTRef_draws (x : Rat) : (s.setTRef x).draws = s.draws := rfl
@[simp] theorem State.setTRef_schedule (x : Rat) : (s.setTRef x).schedule = s.schedule := rfl

@[simp] theorem State.setFb_v (x : Framebuffer) : (s.setFb x).v = s.v := rfl
@[simp] theorem State.setFb_index (x : Framebuffer) : (s.setFb x).index = s.index := rfl
@[simp] theorem State.setFb_pc (x : Framebuffer) : (s.setFb x).pc = s.pc := rfl
@[simp] theorem State.setFb_stack (x : Framebuffer) : (s.setFb x).stack = s.stack := rfl
@[simp] theorem State.setFb_sp (x : Framebuffer) : (s.setFb x).sp = s.sp := rfl
@[simp] theorem State.setFb_dt (x : Framebuffer) : (s.setFb x).dt = s.dt := rfl
@[simp] theorem State.setFb_st (x : Framebuffer) : (s.setFb x).st = s.st := rfl
@[simp] theorem State.setFb_tRef (x : Framebuffer) : (s.setFb x).tRef = s.tRef := rfl
@[simp] theorem State.setFb_fb (x : Framebuffer) : (s.setFb x).fb = x := rfl
@[simp] theorem State.setFb_keys (x : Framebuffer) : (s.setFb x).keys = s.keys := rfl
@[simp] theorem State.setFb_run (x : Framebuffer) : (s.setFb x).run = s.run := rfl
@[simp] theorem State.setFb_diag (x : Framebuffer) : (s.setFb x).diag = s.diag := rfl
@[simp] theorem State.setFb_rate (x : Framebuffer) : (s.setFb x).rate = s.rate := rfl
@[simp] theorem State.setFb_tLast (x : Framebuffer) : (s.setFb x).tLast = s.tLast := rfl
@[simp] theorem State.setFb_mem (x : Framebuffer) : (s.setFb x).mem = s.mem := rfl
@[simp] theorem State.setFb_draws (x : Framebuffer) : (s.setFb x).draws = s.draws := rfl
@[simp] theorem State.setFb_schedule (x : Framebuffer) : (s.setFb x).schedule = s.schedule := rfl

@[simp] theorem State.setKeys_v (x : Vector Bool 16) : (s.setKeys x).v = s.v := rfl
@[simp] theorem State.setKeys_index (x : Vector Bool 16) : (s.setKeys x).index = s.index := rfl
@[simp] theorem State.setKeys_pc (x : Vector Bool 16) : (s.setKeys x).pc = s.pc := rfl
@[simp] theorem State.setKeys_stack (x : Vector Bool 16) : (s.setKeys x).stack = s.stack := rfl
@[simp] theorem State.setKeys_sp (x : Vector Bool 16) : (s.setKeys x).sp = s.sp := rfl
@[simp] theorem State.setKeys_dt (x : Vector Bool 16) : (s.setKeys x).dt = s.dt := rfl
@[simp] theorem State.setKeys_st (x : Vector Bool 16) : (s.setKeys x).st = s.st := rfl
@[simp] theorem State.setKeys_tRef (x : Vector Bool 16) : (s.setKeys x).tRef = s.tRef := rfl
@[simp] theorem State.setKeys_fb (x : Vector Bool 16) : (s.setKeys x).fb = s.fb := rfl
@[simp] theorem State.setKeys_keys (x : Vector Bool 16) : (s.setKeys x).keys = x := rfl
@[simp] theorem State.setKeys_run (x : Vector Bool 16) : (s.setKeys x).run = s.run := rfl
@[simp] theorem State.setKeys_diag (x : Vector Bool 16) : (s.setKeys x).diag = s.diag := rfl
@[simp] theorem State.setKeys_rate (x : Vector Bool 16) : (s.setKeys x).rate = s.rate := rfl
@[simp] theorem State.setKeys_tLast (x : Vector Bool 16) : (s.setKeys x).tLast = s.tLast := rfl
@[simp] theorem State.setKeys_mem (x : Vector Bool 16) : (s.setKeys x).mem = s.mem := rfl
@[simp] theorem State.setKeys_draws (x : Vector Bool 16) : (s.setKeys x).draws = s.draws := rfl
@[simp] theorem State.setKeys_schedule (x : Vector Bool 16) : (s.setKeys x).schedule = s.schedule := rfl

@[simp] theorem State.setRun_v (x : RunState) : (s.setRun x).v = s.v := rfl
@[simp] theorem State.setRun_index (x : RunState) : (s.setRun x).index = s.index := rfl
@[simp] theorem State.setRun_pc (x : RunState) : (s.setRun x).pc = s.pc := rfl
@[simp] theorem State.setRun_stack (x : RunState) : (s.setRun x).stack = s.stack := rfl
@[simp] theorem State.setRun_sp (x : RunState) : (s.setRun x).sp = s.sp := rfl
@[simp] theorem State.setRun_dt (x : RunState) : (s.setRun x).dt = s.dt := rfl
@[simp] theorem State.setRun_st (x : RunState) : (s.setRun x).st = s.st := rfl
@[simp] theorem State.setRun_tRef (x : RunState) : (s.setRun x).tRef = s.tRef := rfl
@[simp] theorem State.setRun_fb (x : RunState) : (s.setRun x).fb = s.fb := rfl
@[simp] theorem State.setRun_keys (x : RunState) : (s.setRun x).keys = s.keys := rfl
@[simp] theorem State.setRun_run (x : RunState) : (s.setRun x).run = x := rfl
@[simp] theorem State.setRun_diag (x : RunState) : (s.setRun x).diag = s.diag := rfl
@[simp] theorem State.setRun_rate (x : RunState) : (s.setRun x).rate = s.rate := rfl
@[simp] theorem State.setRun_tLast (x : RunState) : (s.setRun x).tLast = s.tLast := rfl
@[simp] theorem State.setRun_mem (x : RunState) : (s.setRun x).mem = s.mem := rfl
@[simp] theorem State.setRun_draws (x : RunState) : (s.setRun x).draws = s.draws := rfl
@[simp] theorem State.setRun_schedule (x : RunState) : (s.setRun x).schedule = s.schedule := rfl

@[simp] theorem State.setDiag_v (x : List Diagnostic) : (s.setDiag x).v = s.v := rfl
@[simp] theorem State.setDiag_index (x : List Diagnostic) : (s.setDiag x).index = s.index := rfl
@[simp] theorem State.setDiag_pc (x : List Diagnostic) : (s.setDiag x).pc = s.pc := rfl
@[simp] theorem State.setDiag_stack (x : List Diagnostic) : (s.setDiag x).stack = s.stack := rfl
@[simp] theorem State.setDiag_sp (x : List Diagnostic) : (s.setDiag x).sp = s.sp := rfl
@[simp] theorem State.setDiag_dt (x : List Diagnostic) : (s.setDiag x).dt = s.dt := rfl
@[simp] theorem State.setDiag_st (x : List Diagnostic) : (s.setDiag x).st = s.st := rfl
@[simp] theorem State.setDiag_tRef (x : List Diagnostic) : (s.setDiag x).tRef = s.tRef := rfl
@[simp] theorem State.setDiag_fb (x : List Diagnostic) : (s.setDiag x).fb = s.fb := rfl
@[simp] theorem State.setDiag_keys (x : List Diagnostic) : (s.setDiag x).keys = s.keys := rfl
@[simp] theorem State.setDiag_run (x : List Diagnostic) : (s.setDiag x).run = s.run := rfl
@[simp] theorem State.setDiag_diag (x : List Diagnostic) : (s.setDiag x).diag = x := rfl
@[simp] theorem State.setDiag_rate (x : List Diagnostic) : (s.setDiag x).rate = s.rate := rfl
@[simp] theorem State.setDiag_tLast (x : List Diagnostic) : (s.setDiag x).tLast = s.tLast := rfl
@[simp] theorem State.setDiag_mem (x : List Diagnostic) : (s.setDiag x).mem = s.mem := rfl
@[simp] theorem State.setDiag_draws (x : List Diagnostic) : (s.setDiag x).draws = s.draws := rfl
@[simp] theorem State.setDiag_schedule (x : List Diagnostic) : (s.setDiag x).schedule = s.schedule := rfl

@[simp] theorem State.setRate_v (x : Rat) : (s.setRate x).v = s.v := rfl
@[simp] theorem State.setRate_index (x : Rat) : (s.setRate x).index = s.index := rfl
@[simp] theorem State.setRate_pc (x : Rat) : (s.setRate x).pc = s.pc := rfl
@[simp] theorem State.setRate_stack (x : Rat) : (s.setRate x).stack = s.stack := rfl
@[simp] theorem State.setRate_sp (x : Rat) : (s.setRate x).sp = s.sp := rfl
@[simp] theorem State.setRate_dt (x : Rat) : (s.setRate x).dt = s.dt := rfl
@[simp] theorem State.setRate_st (x : Rat) : (s.setRate x).st = s.st := rfl
@[simp] theorem State.setRate_tRef (x : Rat) : (s.setRate x).tRef = s.tRef := rfl
@[simp] theorem State.setRate_fb (x : Rat) : (s.setRate x).fb = s.fb := rfl
@[simp] theorem State.setRate_keys (x : Rat) : (s.setRate x).keys = s.keys := rfl
@[simp] theorem State.setRate_run (x : Rat) : (s.setRate x).run = s.run := rfl
@[simp] theorem State.setRate_diag (x : Rat) : (s.setRate x).diag = s.diag := rfl
@[simp] theorem State.setRate_rate (x : Rat) : (s.setRate x).rate = x := rfl
@[simp] theorem State.setRate_tLast (x : Rat) : (s.setRate x).tLast = s.tLast := rfl
@[simp] theorem State.setRate_mem (x : Rat) : (s.setRate x).mem = s.mem := rfl
@[simp] theorem State.setRate_draws (x : Rat) : (s.setRate x).draws = s.draws := rfl
@[simp] theorem State.setRate_schedule (x : Rat) : (s.setRate x).schedule = s.schedule := rfl

@[simp] theorem State.setTLast_v (x : Rat) : (s.setTLast x).v = s.v := rfl
@[simp] theorem State.setTLast_index (x : Rat) : (s.setTLast x).index = s.index := rfl
@[simp] theorem State.setTLast_pc (x : Rat) : (s.setTLast x).pc = s.pc := rfl
@[simp] theorem State.setTLast_stack (x : Rat) : (s.setTLast x).stack = s.stack := rfl
@[simp] theorem State.setTLast_sp (x : Rat) : (s.setTLast x).sp = s.sp := rfl
@[simp] theorem State.setTLast_dt (x : Rat) : (s.setTLast x).dt = s.dt := rfl
@[simp] theorem State.setTLast_st (x : Rat) : (s.setTLast x).st = s.st := rfl
@[simp] theorem State.setTLast_tRef (x : Rat) : (s.setTLast x).tRef = s.tRef := rfl
@[simp] theorem State.setTLast_fb (x : Rat) : (s.setTLast x).fb = s.fb := rfl
@[simp] theorem State.setTLast_keys (x : Rat) : (s.setTLast x).keys = s.keys := rfl
@[simp] theorem State.setTLast_run (x : Rat) : (s.setTLast x).run = s.run := rfl
@[simp] theorem State.setTLast_diag (x : Rat) : (s.setTLast x).diag = s.diag := rfl
@[simp] theorem State.setTLast_rate (x : Rat) : (s.setTLast x).rate = s.rate := rfl
@[simp] theorem State.setTLast_tLast (x : Rat) : (s.setTLast x).tLast = x := rfl
@[simp] theorem State.setTLast_mem (x : Rat) : (s.setTLast x).mem = s.mem := rfl
@[simp] theorem State.setTLast_draws (x : Rat) : (s.setTLast x).draws = s.draws := rfl
@[simp] theorem State.setTLast_schedule (x : Rat) : (s.setTLast x).schedule = s.schedule := rfl

@[simp] theorem State.setMem_v (x : Memory) : (s.setMem x).v = s.v := rfl
@[simp] theorem State.setMem_index (x : Memory) : (s.setMem x).index = s.index := rfl
@[simp] theorem State.setMem_pc (x : Memory) : (s.setMem x).pc = s.pc := rfl
@[simp] theorem State.setMem_stack (x : Memory) : (s.setMem x).stack = s.stack := rfl
@[simp] theorem State.setMem_sp (x : Memory) : (s.setMem x).sp = s.sp := rfl
@[simp] theorem State.setMem_dt (x : Memory) : (s.setMem x).dt = s.dt := rfl
@[simp] theorem State.setMem_st (x : Memory) : (s.setMem x).st = s.st := rfl
@[simp] theorem State.setMem_tRef (x : Memory) : (s.setMem x).tRef = s.tRef := rfl
@[simp] theorem State.setMem_fb (x : Memory) : (s.setMem x).fb = s.fb := rfl
@[simp] theorem State.setMem_keys (x : Memory) : (s.setMem x).keys = s.keys := rfl
@[simp] theorem State.setMem_run (x : Memory) : (s.setMem x).run = s.run := rfl
@[simp] theorem State.setMem_diag (x : Memory) : (s.setMem x).diag = s.diag := rfl
@[simp] theorem State.setMem_rate (x : Memory) : (s.setMem x).rate = s.rate := rfl
@[simp] theorem State.setMem_tLast (x : Memory) : (s.setMem x).tLast = s.tLast := rfl
@[simp] theorem State.setMem_mem (x : Memory) : (s.setMem x).mem = x := rfl
@[simp] theorem State.setMem_draws (x : Memory) : (s.setMem x).draws = s.draws := rfl
@[simp] theorem State.setMem_schedule (x : Memory) : (s.setMem x).schedule = s.schedule := rfl

@[simp] theorem State.setDraws_v (x : Nat) : (s.setDraws x).v = s.v := rfl
@[simp] theorem State.setDraws_index (x : Nat) : (s.setDraws x).index = s.index := rfl
@[simp] theorem State.setDraws_pc (x : Nat) : (s.setDraws x).pc = s.pc := rfl
@[simp] theorem State.setDraws_stack (x : Nat) : (s.setDraws x).stack = s.stack := rfl
@[simp] theorem State.setDraws_sp (x : Nat) : (s.setDraws x).sp = s.sp := rfl
@[simp] theorem State.setDraws_dt (x : Nat) : (s.setDraws x).dt = s.dt := rfl
@[simp] theorem State.setDraws_st (x : Nat) : (s.setDraws x).st = s.st := rfl
@[simp] theorem State.setDraws_tRef (x : Nat) : (s.setDraws x).tRef = s.tRef := rfl
@[simp] theorem State.setDraws_fb (x : Nat) : (s.setDraws x).fb = s.fb := rfl
@[simp] theorem State.setDraws_keys (x : Nat) : (s.setDraws x).keys = s.keys := rfl
@[simp] theorem State.setDraws_run (x : Nat) : (s.setDraws x).run = s.run := rfl
@[simp] theorem State.setDraws_diag (x : Nat) : (s.setDraws x).diag = s.diag := rfl
@[simp] theorem State.setDraws_rate (x : Nat) : (s.setDraws x).rate = s.rate := rfl
@[simp] theorem State.setDraws_tLast (x : Nat) : (s.setDraws x).tLast = s.tLast := rfl
@[simp] theorem State.setDraws_mem (x : Nat) : (s.setDraws x).mem = s.mem := rfl
@[simp] theorem State.setDraws_draws (x : Nat) : (s.setDraws x).draws = x := rfl
@[simp] theorem State.setDraws_schedule (x : Nat) : (s.setDraws x).schedule = s.schedule := rfl

@[simp] theorem State.setSchedule_v (x : List Transaction) : (s.setSchedule x).v = s.v := rfl
@[simp] theorem State.setSchedule_index (x : List Transaction) : (s.setSchedule x).index = s.index := rfl
@[simp] theorem State.setSchedule_pc (x : List Transaction) : (s.setSchedule x).pc = s.pc := rfl
@[simp] theorem State.setSchedule_stack (x : List Transaction) : (s.setSchedule x).stack = s.stack := rfl
@[simp] theorem State.setSchedule_sp (x : List Transaction) : (s.setSchedule x).sp = s.sp := rfl
@[simp] theorem State.setSchedule_dt (x : List Transaction) : (s.setSchedule x).dt = s.dt := rfl
@[simp] theorem State.setSchedule_st (x : List Transaction) : (s.setSchedule x).st = s.st := rfl
@[simp] theorem State.setSchedule_tRef (x : List Transaction) : (s.setSchedule x).tRef = s.tRef := rfl
@[simp] theorem State.setSchedule_fb (x : List Transaction) : (s.setSchedule x).fb = s.fb := rfl
@[simp] theorem State.setSchedule_keys (x : List Transaction) : (s.setSchedule x).keys = s.keys := rfl
@[simp] theorem State.setSchedule_run (x : List Transaction) : (s.setSchedule x).run = s.run := rfl
@[simp] theorem State.setSchedule_diag (x : List Transaction) : (s.setSchedule x).diag = s.diag := rfl
@[simp] theorem State.setSchedule_rate (x : List Transaction) : (s.setSchedule x).rate = s.rate := rfl
@[simp] theorem State.setSchedule_tLast (x : List Transaction) : (s.setSchedule x).tLast = s.tLast := rfl
@[simp] theorem State.setSchedule_mem (x : List Transaction) : (s.setSchedule x).mem = s.mem := rfl
@[simp] theorem State.setSchedule_draws (x : List Transaction) : (s.setSchedule x).draws = s.draws := rfl
@[simp] theorem State.setSchedule_schedule (x : List Transaction) : (s.setSchedule x).schedule = x := rfl

@[simp] theorem State.writeV_v (x : Reg) (b : Byte) : (s.writeV x b).v = s.v.set x.val b := rfl
@[simp] theorem State.writeV_index (x : Reg) (b : Byte) : (s.writeV x b).index = s.index := rfl
@[simp] theorem State.writeV_pc (x : Reg) (b : Byte) : (s.writeV x b).pc = s.pc := rfl
@[simp] theorem State.writeV_stack (x : Reg) (b : Byte) : (s.writeV x b).stack = s.stack := rfl
@[simp] theorem State.writeV_sp (x : Reg) (b : Byte) : (s.writeV x b).sp = s.sp := rfl
@[simp] theorem State.writeV_dt (x : Reg) (b : Byte) : (s.writeV x b).dt = s.dt := rfl
@[simp] theorem State.writeV_st (x : Reg) (b : Byte) : (s.writeV x b).st = s.st := rfl
@[simp] theorem State.writeV_tRef (x : Reg) (b : Byte) : (s.writeV x b).tRef = s.tRef := rfl
@[simp] theorem State.writeV_fb (x : Reg) (b : Byte) : (s.writeV x b).fb = s.fb := rfl
@[simp] theorem State.writeV_keys (x : Reg) (b : Byte) : (s.writeV x b).keys = s.keys := rfl
@[simp] theorem State.writeV_run (x : Reg) (b : Byte) : (s.writeV x b).run = s.run := rfl
@[simp] theorem State.writeV_diag (x : Reg) (b : Byte) : (s.writeV x b).diag = s.diag := rfl
@[simp] theorem State.writeV_rate (x : Reg) (b : Byte) : (s.writeV x b).rate = s.rate := rfl
@[simp] theorem State.writeV_tLast (x : Reg) (b : Byte) : (s.writeV x b).tLast = s.tLast := rfl
@[simp] theorem State.writeV_mem (x : Reg) (b : Byte) : (s.writeV x b).mem = s.mem := rfl
@[simp] theorem State.writeV_draws (x : Reg) (b : Byte) : (s.writeV x b).draws = s.draws := rfl
@[simp] theorem State.writeV_schedule (x : Reg) (b : Byte) : (s.writeV x b).schedule = s.schedule := rfl

@[simp] theorem State.writeVF_v (b : Byte) : (s.writeVF b).v = s.v.set regF.val b := rfl
@[simp] theorem State.writeVF_index (b : Byte) : (s.writeVF b).index = s.index := rfl
@[simp] theorem State.writeVF_pc (b : Byte) : (s.writeVF b).pc = s.pc := rfl
@[simp] theorem State.writeVF_stack (b : Byte) : (s.writeVF b).stack = s.stack := rfl
@[simp] theorem State.writeVF_sp (b : Byte) : (s.writeVF b).sp = s.sp := rfl
@[simp] theorem State.writeVF_dt (b : Byte) : (s.writeVF b).dt = s.dt := rfl
@[simp] theorem State.writeVF_st (b : Byte) : (s.writeVF b).st = s.st := rfl
@[simp] theorem State.writeVF_tRef (b : Byte) : (s.writeVF b).tRef = s.tRef := rfl
@[simp] theorem State.writeVF_fb (b : Byte) : (s.writeVF b).fb = s.fb := rfl
@[simp] theorem State.writeVF_keys (b : Byte) : (s.writeVF b).keys = s.keys := rfl
@[simp] theorem State.writeVF_run (b : Byte) : (s.writeVF b).run = s.run := rfl
@[simp] theorem State.writeVF_diag (b : Byte) : (s.writeVF b).diag = s.diag := rfl
@[simp] theorem State.writeVF_rate (b : Byte) : (s.writeVF b).rate = s.rate := rfl
@[simp] theorem State.writeVF_tLast (b : Byte) : (s.writeVF b).tLast = s.tLast := rfl
@[simp] theorem State.writeVF_mem (b : Byte) : (s.writeVF b).mem = s.mem := rfl
@[simp] theorem State.writeVF_draws (b : Byte) : (s.writeVF b).draws = s.draws := rfl
@[simp] theorem State.writeVF_schedule (b : Byte) : (s.writeVF b).schedule = s.schedule := rfl

@[simp] theorem State.writeResultFlag_v (x : Reg) (b c : Byte) : (s.writeResultFlag x b c).v = (s.v.set x.val b).set regF.val c := rfl
@[simp] theorem State.writeResultFlag_index (x : Reg) (b c : Byte) : (s.writeResultFlag x b c).index = s.index := rfl
@[simp] theorem State.writeResultFlag_pc (x : Reg) (b c : Byte) : (s.writeResultFlag x b c).pc = s.pc := rfl
@[simp] theorem State.writeResultFlag_stack (x : Reg) (b c : Byte) : (s.writeResultFlag x b c).stack = s.stack := rfl
@[simp] theorem State.writeResultFlag_sp (x : Reg) (b c : Byte) : (s.writeResultFlag x b c).sp = s.sp := rfl
@[simp] theorem State.writeResultFlag_dt (x : Reg) (b c : Byte) : (s.writeResultFlag x b c).dt = s.dt := rfl
@[simp] theorem State.writeResultFlag_st (x : Reg) (b c : Byte) : (s.writeResultFlag x b c).st = s.st := rfl
@[simp] theorem State.writeResultFlag_tRef (x : Reg) (b c : Byte) : (s.writeResultFlag x b c).tRef = s.tRef := rfl
@[simp] theorem State.writeResultFlag_fb (x : Reg) (b c : Byte) : (s.writeResultFlag x b c).fb = s.fb := rfl
@[simp] theorem State.writeResultFlag_keys (x : Reg) (b c : Byte) : (s.writeResultFlag x b c).keys = s.keys := rfl
@[simp] theorem State.writeResultFlag_run (x : Reg) (b c : Byte) : (s.writeResultFlag x b c).run = s.run := rfl
@[simp] theorem State.writeResultFlag_diag (x : Reg) (b c : Byte) : (s.writeResultFlag x b c).diag = s.diag := rfl
@[simp] theorem State.writeResultFlag_rate (x : Reg) (b c : Byte) : (s.writeResultFlag x b c).rate = s.rate := rfl
@[simp] theorem State.writeResultFlag_tLast (x : Reg) (b c : Byte) : (s.writeResultFlag x b c).tLast = s.tLast := rfl
@[simp] theorem State.writeResultFlag_mem (x : Reg) (b c : Byte) : (s.writeResultFlag x b c).mem = s.mem := rfl
@[simp] theorem State.writeResultFlag_draws (x : Reg) (b c : Byte) : (s.writeResultFlag x b c).draws = s.draws := rfl
@[simp] theorem State.writeResultFlag_schedule (x : Reg) (b c : Byte) : (s.writeResultFlag x b c).schedule = s.schedule := rfl

@[simp] theorem State.advance_v  : (s.advance).v = s.v := rfl
@[simp] theorem State.advance_index  : (s.advance).index = s.index := rfl
@[simp] theorem State.advance_pc  : (s.advance).pc = s.pc + 2#16 := rfl
@[simp] theorem State.advance_stack  : (s.advance).stack = s.stack := rfl
@[simp] theorem State.advance_sp  : (s.advance).sp = s.sp := rfl
@[simp] theorem State.advance_dt  : (s.advance).dt = s.dt := rfl
@[simp] theorem State.advance_st  : (s.advance).st = s.st := rfl
@[simp] theorem State.advance_tRef  : (s.advance).tRef = s.tRef := rfl
@[simp] theorem State.advance_fb  : (s.advance).fb = s.fb := rfl
@[simp] theorem State.advance_keys  : (s.advance).keys = s.keys := rfl
@[simp] theorem State.advance_run  : (s.advance).run = s.run := rfl
@[simp] theorem State.advance_diag  : (s.advance).diag = s.diag := rfl
@[simp] theorem State.advance_rate  : (s.advance).rate = s.rate := rfl
@[simp] theorem State.advance_tLast  : (s.advance).tLast = s.tLast := rfl
@[simp] theorem State.advance_mem  : (s.advance).mem = s.mem := rfl
@[simp] theorem State.advance_draws  : (s.advance).draws = s.draws := rfl
@[simp] theorem State.advance_schedule  : (s.advance).schedule = s.schedule := rfl

@[simp] theorem State.raise_v (c : FaultCause) (op : Word) : (s.raise c op).v = s.v := rfl
@[simp] theorem State.raise_index (c : FaultCause) (op : Word) : (s.raise c op).index = s.index := rfl
@[simp] theorem State.raise_pc (c : FaultCause) (op : Word) : (s.raise c op).pc = s.pc := rfl
@[simp] theorem State.raise_stack (c : FaultCause) (op : Word) : (s.raise c op).stack = s.stack := rfl
@[simp] theorem State.raise_sp (c : FaultCause) (op : Word) : (s.raise c op).sp = s.sp := rfl
@[simp] theorem State.raise_dt (c : FaultCause) (op : Word) : (s.raise c op).dt = s.dt := rfl
@[simp] theorem State.raise_st (c : FaultCause) (op : Word) : (s.raise c op).st = s.st := rfl
@[simp] theorem State.raise_tRef (c : FaultCause) (op : Word) : (s.raise c op).tRef = s.tRef := rfl
@[simp] theorem State.raise_fb (c : FaultCause) (op : Word) : (s.raise c op).fb = s.fb := rfl
@[simp] theorem State.raise_keys (c : FaultCause) (op : Word) : (s.raise c op).keys = s.keys := rfl
@[simp] theorem State.raise_run (c : FaultCause) (op : Word) : (s.raise c op).run = .faulted ⟨c, s.pc, op⟩ := rfl
@[simp] theorem State.raise_diag (c : FaultCause) (op : Word) : (s.raise c op).diag = s.diag := rfl
@[simp] theorem State.raise_rate (c : FaultCause) (op : Word) : (s.raise c op).rate = s.rate := rfl
@[simp] theorem State.raise_tLast (c : FaultCause) (op : Word) : (s.raise c op).tLast = s.tLast := rfl
@[simp] theorem State.raise_mem (c : FaultCause) (op : Word) : (s.raise c op).mem = s.mem := rfl
@[simp] theorem State.raise_draws (c : FaultCause) (op : Word) : (s.raise c op).draws = s.draws := rfl
@[simp] theorem State.raise_schedule (c : FaultCause) (op : Word) : (s.raise c op).schedule = s.schedule := rfl

@[simp] theorem State.emitDiagnostic_v (p op : Word) : (s.emitDiagnostic p op).v = s.v := rfl
@[simp] theorem State.emitDiagnostic_index (p op : Word) : (s.emitDiagnostic p op).index = s.index := rfl
@[simp] theorem State.emitDiagnostic_pc (p op : Word) : (s.emitDiagnostic p op).pc = s.pc := rfl
@[simp] theorem State.emitDiagnostic_stack (p op : Word) : (s.emitDiagnostic p op).stack = s.stack := rfl
@[simp] theorem State.emitDiagnostic_sp (p op : Word) : (s.emitDiagnostic p op).sp = s.sp := rfl
@[simp] theorem State.emitDiagnostic_dt (p op : Word) : (s.emitDiagnostic p op).dt = s.dt := rfl
@[simp] theorem State.emitDiagnostic_st (p op : Word) : (s.emitDiagnostic p op).st = s.st := rfl
@[simp] theorem State.emitDiagnostic_tRef (p op : Word) : (s.emitDiagnostic p op).tRef = s.tRef := rfl
@[simp] theorem State.emitDiagnostic_fb (p op : Word) : (s.emitDiagnostic p op).fb = s.fb := rfl
@[simp] theorem State.emitDiagnostic_keys (p op : Word) : (s.emitDiagnostic p op).keys = s.keys := rfl
@[simp] theorem State.emitDiagnostic_run (p op : Word) : (s.emitDiagnostic p op).run = s.run := rfl
@[simp] theorem State.emitDiagnostic_diag (p op : Word) : (s.emitDiagnostic p op).diag = s.diag ++ [⟨p, op⟩] := rfl
@[simp] theorem State.emitDiagnostic_rate (p op : Word) : (s.emitDiagnostic p op).rate = s.rate := rfl
@[simp] theorem State.emitDiagnostic_tLast (p op : Word) : (s.emitDiagnostic p op).tLast = s.tLast := rfl
@[simp] theorem State.emitDiagnostic_mem (p op : Word) : (s.emitDiagnostic p op).mem = s.mem := rfl
@[simp] theorem State.emitDiagnostic_draws (p op : Word) : (s.emitDiagnostic p op).draws = s.draws := rfl
@[simp] theorem State.emitDiagnostic_schedule (p op : Word) : (s.emitDiagnostic p op).schedule = s.schedule := rfl

@[simp] theorem State.unmappedNop_v (op : Word) : (s.unmappedNop op).v = s.v := rfl
@[simp] theorem State.unmappedNop_index (op : Word) : (s.unmappedNop op).index = s.index := rfl
@[simp] theorem State.unmappedNop_pc (op : Word) : (s.unmappedNop op).pc = s.pc + 2#16 := rfl
@[simp] theorem State.unmappedNop_stack (op : Word) : (s.unmappedNop op).stack = s.stack := rfl
@[simp] theorem State.unmappedNop_sp (op : Word) : (s.unmappedNop op).sp = s.sp := rfl
@[simp] theorem State.unmappedNop_dt (op : Word) : (s.unmappedNop op).dt = s.dt := rfl
@[simp] theorem State.unmappedNop_st (op : Word) : (s.unmappedNop op).st = s.st := rfl
@[simp] theorem State.unmappedNop_tRef (op : Word) : (s.unmappedNop op).tRef = s.tRef := rfl
@[simp] theorem State.unmappedNop_fb (op : Word) : (s.unmappedNop op).fb = s.fb := rfl
@[simp] theorem State.unmappedNop_keys (op : Word) : (s.unmappedNop op).keys = s.keys := rfl
@[simp] theorem State.unmappedNop_run (op : Word) : (s.unmappedNop op).run = s.run := rfl
@[simp] theorem State.unmappedNop_diag (op : Word) : (s.unmappedNop op).diag = s.diag ++ [⟨s.pc, op⟩] := rfl
@[simp] theorem State.unmappedNop_rate (op : Word) : (s.unmappedNop op).rate = s.rate := rfl
@[simp] theorem State.unmappedNop_tLast (op : Word) : (s.unmappedNop op).tLast = s.tLast := rfl
@[simp] theorem State.unmappedNop_mem (op : Word) : (s.unmappedNop op).mem = s.mem := rfl
@[simp] theorem State.unmappedNop_draws (op : Word) : (s.unmappedNop op).draws = s.draws := rfl
@[simp] theorem State.unmappedNop_schedule (op : Word) : (s.unmappedNop op).schedule = s.schedule := rfl

@[simp] theorem State.storeAtIndex_v (bs : List Byte) : (s.storeAtIndex bs).v = s.v := rfl
@[simp] theorem State.storeAtIndex_index (bs : List Byte) : (s.storeAtIndex bs).index = s.index := rfl
@[simp] theorem State.storeAtIndex_pc (bs : List Byte) : (s.storeAtIndex bs).pc = s.pc := rfl
@[simp] theorem State.storeAtIndex_stack (bs : List Byte) : (s.storeAtIndex bs).stack = s.stack := rfl
@[simp] theorem State.storeAtIndex_sp (bs : List Byte) : (s.storeAtIndex bs).sp = s.sp := rfl
@[simp] theorem State.storeAtIndex_dt (bs : List Byte) : (s.storeAtIndex bs).dt = s.dt := rfl
@[simp] theorem State.storeAtIndex_st (bs : List Byte) : (s.storeAtIndex bs).st = s.st := rfl
@[simp] theorem State.storeAtIndex_tRef (bs : List Byte) : (s.storeAtIndex bs).tRef = s.tRef := rfl
@[simp] theorem State.storeAtIndex_fb (bs : List Byte) : (s.storeAtIndex bs).fb = s.fb := rfl
@[simp] theorem State.storeAtIndex_keys (bs : List Byte) : (s.storeAtIndex bs).keys = s.keys := rfl
@[simp] theorem State.storeAtIndex_run (bs : List Byte) : (s.storeAtIndex bs).run = s.run := rfl
@[simp] theorem State.storeAtIndex_diag (bs : List Byte) : (s.storeAtIndex bs).diag = s.diag := rfl
@[simp] theorem State.storeAtIndex_rate (bs : List Byte) : (s.storeAtIndex bs).rate = s.rate := rfl
@[simp] theorem State.storeAtIndex_tLast (bs : List Byte) : (s.storeAtIndex bs).tLast = s.tLast := rfl
@[simp] theorem State.storeAtIndex_mem (bs : List Byte) : (s.storeAtIndex bs).mem = s.mem.storeBytes s.index.toNat bs := rfl
@[simp] theorem State.storeAtIndex_draws (bs : List Byte) : (s.storeAtIndex bs).draws = s.draws := rfl
@[simp] theorem State.storeAtIndex_schedule (bs : List Byte) : (s.storeAtIndex bs).schedule = s.schedule := rfl

@[simp] theorem State.skipIf_v (c : Bool) : (s.skipIf c).v = s.v := by cases c <;> rfl
@[simp] theorem State.skipIf_index (c : Bool) : (s.skipIf c).index = s.index := by cases c <;> rfl
@[simp] theorem State.skipIf_pc (c : Bool) : (s.skipIf c).pc = if c then s.pc + 2#16 else s.pc := by cases c <;> rfl
@[simp] theorem State.skipIf_stack (c : Bool) : (s.skipIf c).stack = s.stack := by cases c <;> rfl
@[simp] theorem State.skipIf_sp (c : Bool) : (s.skipIf c).sp = s.sp := by cases c <;> rfl
@[simp] theorem State.skipIf_dt (c : Bool) : (s.skipIf c).dt = s.dt := by cases c <;> rfl
@[simp] theorem State.skipIf_st (c : Bool) : (s.skipIf c).st = s.st := by cases c <;> rfl
@[simp] theorem State.skipIf_tRef (c : Bool) : (s.skipIf c).tRef = s.tRef := by cases c <;> rfl
@[simp] theorem State.skipIf_fb (c : Bool) : (s.skipIf c).fb = s.fb := by cases c <;> rfl
@[simp] theorem State.skipIf_keys (c : Bool) : (s.skipIf c).keys = s.keys := by cases c <;> rfl
@[simp] theorem State.skipIf_run (c : Bool) : (s.skipIf c).run = s.run := by cases c <;> rfl
@[simp] theorem State.skipIf_diag (c : Bool) : (s.skipIf c).diag = s.diag := by cases c <;> rfl
@[simp] theorem State.skipIf_rate (c : Bool) : (s.skipIf c).rate = s.rate := by cases c <;> rfl
@[simp] theorem State.skipIf_tLast (c : Bool) : (s.skipIf c).tLast = s.tLast := by cases c <;> rfl
@[simp] theorem State.skipIf_mem (c : Bool) : (s.skipIf c).mem = s.mem := by cases c <;> rfl
@[simp] theorem State.skipIf_draws (c : Bool) : (s.skipIf c).draws = s.draws := by cases c <;> rfl
@[simp] theorem State.skipIf_schedule (c : Bool) : (s.skipIf c).schedule = s.schedule := by cases c <;> rfl

/-! What the register read sees of each update. -/

@[simp] theorem State.readV_setIndex (x : Word) (r : Reg) : (s.setIndex x).readV r = s.readV r := rfl
@[simp] theorem State.readV_setPc (x : Word) (r : Reg) : (s.setPc x).readV r = s.readV r := rfl
@[simp] theorem State.readV_setStack (x : Vector Word 16) (r : Reg) : (s.setStack x).readV r = s.readV r := rfl
@[simp] theorem State.readV_setSp (x : Fin 17) (r : Reg) : (s.setSp x).readV r = s.readV r := rfl
@[simp] theorem State.readV_setDt (x : Byte) (r : Reg) : (s.setDt x).readV r = s.readV r := rfl
@[simp] theorem State.readV_setSt (x : Byte) (r : Reg) : (s.setSt x).readV r = s.readV r := rfl
@[simp] theorem State.readV_setTRef (x : Rat) (r : Reg) : (s.setTRef x).readV r = s.readV r := rfl
@[simp] theorem State.readV_setFb (x : Framebuffer) (r : Reg) : (s.setFb x).readV r = s.readV r := rfl
@[simp] theorem State.readV_setKeys (x : Vector Bool 16) (r : Reg) : (s.setKeys x).readV r = s.readV r := rfl
@[simp] theorem State.readV_setRun (x : RunState) (r : Reg) : (s.setRun x).readV r = s.readV r := rfl
@[simp] theorem State.readV_setDiag (x : List Diagnostic) (r : Reg) : (s.setDiag x).readV r = s.readV r := rfl
@[simp] theorem State.readV_setRate (x : Rat) (r : Reg) : (s.setRate x).readV r = s.readV r := rfl
@[simp] theorem State.readV_setTLast (x : Rat) (r : Reg) : (s.setTLast x).readV r = s.readV r := rfl
@[simp] theorem State.readV_setMem (x : Memory) (r : Reg) : (s.setMem x).readV r = s.readV r := rfl
@[simp] theorem State.readV_setDraws (x : Nat) (r : Reg) : (s.setDraws x).readV r = s.readV r := rfl
@[simp] theorem State.readV_setSchedule (x : List Transaction) (r : Reg) : (s.setSchedule x).readV r = s.readV r := rfl

@[simp] theorem State.readV_advance (r : Reg) : s.advance.readV r = s.readV r := rfl
@[simp] theorem State.readV_raise (c : FaultCause) (op : Word) (r : Reg) : (s.raise c op).readV r = s.readV r := rfl
@[simp] theorem State.readV_emitDiagnostic (p op : Word) (r : Reg) : (s.emitDiagnostic p op).readV r = s.readV r := rfl
@[simp] theorem State.readV_unmappedNop (op : Word) (r : Reg) : (s.unmappedNop op).readV r = s.readV r := rfl
@[simp] theorem State.readV_storeAtIndex (bs : List Byte) (r : Reg) : (s.storeAtIndex bs).readV r = s.readV r := rfl
@[simp] theorem State.readV_skipIf (c : Bool) (r : Reg) : (s.skipIf c).readV r = s.readV r := by cases c <;> rfl

/-- A register reads as it was written, every other as before (R30). -/
@[simp] theorem State.readV_writeV (x r : Reg) (b : Byte) : (s.writeV x b).readV r = if r = x then b else s.readV r := by
  simp only [State.readV, State.writeV, State.setV, Vector.getElem_set, Fin.ext_iff, eq_comm]

/-- The flag is written last: it is what VF holds, also when `x = 15` (R181). -/
@[simp] theorem State.readV_writeResultFlag (x r : Reg) (b c : Byte) :
    (s.writeResultFlag x b c).readV r = if r = regF then c else if r = x then b else s.readV r := by
  simp [State.writeResultFlag, State.writeVF]

@[simp] theorem State.readV_writeVF (r : Reg) (c : Byte) :
    (s.writeVF c).readV r = if r = regF then c else s.readV r := by
  simp [State.writeVF]

end Sys2Proof.Machine
end

