-- ==== Sys2Proof/Laws/Ops.lean ====
section
/-! SUPPORT. One lemma for each shared operation of Machine/Ops.lean, Operands.lean and Flags.lean that says what it can do. -/

namespace Sys2Proof.Machine

variable (s : State)

/-- `push` fails exactly on a full stack (R39). -/
theorem State.push_eq_none (w : Word) : s.push w = none ↔ s.sp.val = 16 := by
  unfold State.push
  split
  · simp; omega
  · have := s.sp.isLt; simp; omega

/-- What a successful `push` does: the entry at `SP`, and `SP + 1` (R39). -/
theorem State.push_eq_some {w : Word} {t : State} (h : s.push w = some t) :
    s.sp.val < 16 ∧ t.sp.val = s.sp.val + 1 ∧ t = (s.setStack t.stack).setSp t.sp ∧
      ∀ k (hk : k < 16), t.stack[k] = if k = s.sp.val then w else s.stack[k] := by
  unfold State.push at h
  split at h
  · next hlt =>
    obtain rfl := Option.some.inj h
    refine ⟨hlt, rfl, rfl, fun k hk => ?_⟩
    simp [Vector.getElem_set, eq_comm]
  · cases h

theorem State.push_of_lt {w : Word} (h : s.sp.val < 16) :
    s.push w = some ((s.setStack (s.stack.set s.sp.val w)).setSp ⟨s.sp.val + 1, Nat.succ_lt_succ h⟩) := by
  simp [State.push, h]

/-- `pop` fails exactly on an empty stack (R39). -/
theorem State.pop_eq_none : s.pop = none ↔ s.sp.val = 0 := by
  unfold State.pop
  split
  · simp; omega
  · simp; omega

/-- What a successful `pop` does: the topmost entry, and `SP - 1` (R39). -/
theorem State.pop_eq_some {w : Word} {t : State} (h : s.pop = some (w, t)) :
    0 < s.sp.val ∧ t.sp.val = s.sp.val - 1 ∧ t = s.setSp t.sp ∧
      ∃ hk : s.sp.val - 1 < 16, w = s.stack[s.sp.val - 1] := by
  unfold State.pop at h
  split at h
  · next hlt =>
    have := Option.some.inj h
    simp only [Prod.mk.injEq] at this
    obtain ⟨hw, rfl⟩ := this
    have := s.sp.isLt
    exact ⟨hlt, rfl, rfl, by omega, hw.symm⟩
  · cases h

theorem State.pop_of_pos (h : 0 < s.sp.val) :
    s.pop = some (s.stack[s.sp.val - 1]'(by have := s.sp.isLt; omega),
      s.setSp ⟨s.sp.val - 1, by have := s.sp.isLt; omega⟩) := by
  simp [State.pop, h]

/-- No key is selected exactly when none is pressed (R256). -/
theorem State.selectKey_eq_none : s.selectKey = none ↔ ∀ k, s.keyPressed k = false := by
  simp [State.selectKey]

/-- The selected key is pressed, and no lower-numbered one is (R254). -/
theorem State.selectKey_eq_some {k : Key} (h : s.selectKey = some k) :
    s.keyPressed k = true ∧ ∀ j, j < k → s.keyPressed j = false := by
  unfold State.selectKey at h
  rw [List.find?_eq_some_iff_getElem] at h
  obtain ⟨hk, i, hi, hik, hbefore⟩ := h
  have hi' : i < 16 := by simpa using hi
  refine ⟨hk, fun j hj => ?_⟩
  have hkv : k.val = i := by rw [← hik]; simp
  have hji : j.val < i := by rw [← hkv]; exact hj
  have := hbefore j.val hji
  simpa using this

/-- A pressed key with none lower pressed is the one selected (R254). -/
theorem State.selectKey_of_lowest {k : Key} (hk : s.keyPressed k = true) (hlow : ∀ j, j < k → s.keyPressed j = false) :
    s.selectKey = some k := by
  cases h : s.selectKey with
  | none =>
    have := (State.selectKey_eq_none s).1 h k
    simp [hk] at this
  | some j =>
    obtain ⟨hj, hjlow⟩ := State.selectKey_eq_some s h
    rcases Nat.lt_trichotomy j.val k.val with hlt | heq | hgt
    · have := hlow j hlt
      simp [hj] at this
    · rw [Fin.ext heq]
    · have := hjlow k hgt
      simp [hk] at this

/-- Some key is selected as soon as one is pressed (R256). -/
theorem State.selectKey_of_pressed (h : ∃ k, s.keyPressed k = true) : ∃ k, s.selectKey = some k := by
  cases e : s.selectKey with
  | some k => exact ⟨k, rfl⟩
  | none =>
    obtain ⟨k, hk⟩ := h
    have := (State.selectKey_eq_none s).1 e k
    simp [hk] at this

/-- A register value names a key exactly when it is at most 15 (R250). -/
theorem keyNumber_fault_eq_none (b : Byte) : keyNumber .fault b = none ↔ 15 < b.toNat := by
  unfold keyNumber
  simp only
  split
  · simp; omega
  · simp; omega

theorem keyNumber_fault_of_lt {b : Byte} (h : b.toNat < 16) : keyNumber .fault b = some ⟨b.toNat, h⟩ := by
  simp [keyNumber, h]

@[simp] theorem keyIndexPolicy_eq : keyIndexPolicy = .fault := rfl

@[simp] theorem indexAfterTransfer_kept (w : Word) (x : Reg) : indexAfterTransfer loadStoreIncrementsI w x = w := rfl

/-- V0..Vx come from memory, the other registers are kept (R216). -/
theorem State.readV_loadRegisters (base : Word) (x r : Reg) :
    (s.loadRegisters base x).readV r = if r.val ≤ x.val then s.mem.read (base.toNat + r.val) else s.readV r := by
  simp [State.loadRegisters, State.readV, State.setV]

@[simp] theorem State.length_registersUpTo (x : Reg) : (s.registersUpTo x).length = x.val + 1 := by
  simp [State.registersUpTo]

theorem State.getElem_registersUpTo (x : Reg) (k : Nat) (hk : k < (s.registersUpTo x).length) (hk' : k < 16) :
    (s.registersUpTo x)[k] = s.readV ⟨k, hk'⟩ := by
  simp [State.registersUpTo, State.readV]

@[simp] theorem length_bcdDigits (b : Byte) : (bcdDigits b).length = 3 := rfl

/-! The arithmetic, as numbers. -/

theorem toNat_addResult (a b : Byte) : (addResult a b).toNat = (a.toNat + b.toNat) % 256 := by
  simp [addResult]

theorem toNat_subResult (a b : Byte) : (subResult a b).toNat = (a.toNat + 256 - b.toNat) % 256 := by
  have ha := a.isLt
  have hb := b.isLt
  simp only [subResult, BitVec.toNat_ofInt]
  omega

theorem toNat_addIndexResult (w : Word) (a : Byte) :
    (addIndexResult w a).toNat =
      if 0x0FFF < w.toNat + a.toNat then (w.toNat + a.toNat) % 4096 else w.toNat + a.toNat := by
  unfold addIndexResult indexSum
  split
  · have h : (0x0FFF : Nat) = 2 ^ 12 - 1 := rfl
    simp only [BitVec.toNat_and, BitVec.toNat_ofNat]
    rw [show (4095 % 2 ^ 16 : Nat) = 2 ^ 12 - 1 from rfl, Nat.and_two_pow_sub_one_eq_mod]
    omega
  · simp only [BitVec.toNat_ofNat]; omega

/-- `I` stays at most 0x0FFF through ADD I (R34, R212). -/
theorem addIndexResult_le (w : Word) (a : Byte) : (addIndexResult w a).toNat ≤ 0x0FFF := by
  rw [toNat_addIndexResult]
  split <;> omega

theorem toNat_zext_addr (a : Addr) : a.zext.toNat = a.toNat := by
  have := a.isLt
  simp [Addr.zext]; omega

theorem toNat_zext_byte (b : Byte) : b.zext.toNat = b.toNat := by
  have := b.isLt
  simp [Byte.zext]; omega

/-- `I` is at most 255 * 5 after LD F (R34, R213). -/
theorem toNat_glyphAddress (b : Byte) : (glyphAddress b).toNat = b.toNat * 5 := by
  have := b.isLt
  simp [glyphAddress, glyphBase, Config.glyphBytes]; omega

end Sys2Proof.Machine
end

