-- ==== Sys2Proof/Laws/Exec.lean ====
section
/-! SUPPORT. Every instruction completes or takes its fault as a next state: no arm of `exec` stops. -/

namespace Sys2Proof.Machine

theorem execRet_next (s : State) : ∃ t, execRet s = .next t := by
  unfold execRet
  split <;> exact ⟨_, rfl⟩

theorem execCall_next (nnn : Addr) (s : State) : ∃ t, execCall nnn s = .next t := by
  unfold execCall
  split <;> exact ⟨_, rfl⟩

theorem execSkp_next (x : Reg) (s : State) : ∃ t, execSkp x s = .next t := by
  unfold execSkp
  split <;> exact ⟨_, rfl⟩

theorem execSknp_next (x : Reg) (s : State) : ∃ t, execSknp x s = .next t := by
  unfold execSknp
  split <;> exact ⟨_, rfl⟩

theorem execLdVxK_next (x : Reg) (s : State) : ∃ t, execLdVxK x s = .next t := by
  unfold execLdVxK
  split <;> exact ⟨_, rfl⟩

/-! What the branching meanings answer in each case. -/

theorem execCall_of_lt {s : State} (nnn : Addr) (h : s.sp.val < 16) :
    execCall nnn s = .next (((s.advance.setStack (s.stack.set s.sp.val (s.pc + 2#16))).setSp
      ⟨s.sp.val + 1, Nat.succ_lt_succ h⟩).setPc nnn.zext) := by
  have hp := State.push_of_lt s.advance (w := s.advance.pc) h
  simp only [execCall, hp]
  rfl

theorem execCall_of_full {s : State} (nnn : Addr) (h : s.sp.val = 16) :
    execCall nnn s = .next (s.raise .stackOverflow (encode (.call nnn))) := by
  simp only [execCall, (State.push_eq_none s.advance s.advance.pc).2 h]

theorem execRet_of_pos {s : State} (h : 0 < s.sp.val) :
    execRet s = .next ((s.advance.setSp ⟨s.sp.val - 1, by have := s.sp.isLt; omega⟩).setPc
      (s.stack[s.sp.val - 1]'(by have := s.sp.isLt; omega))) := by
  have hp := State.pop_of_pos s.advance h
  simp only [execRet, hp]
  rfl

theorem execRet_of_empty {s : State} (h : s.sp.val = 0) :
    execRet s = .next (s.raise .stackUnderflow (encode .ret)) := by
  simp only [execRet, (State.pop_eq_none s.advance).2 h]

theorem execSkp_of_le {s : State} {x : Reg} (k : Key) (h : (s.readV x).toNat = k.val) :
    execSkp x s = .next (s.advance.skipIf (s.keyPressed k)) := by
  have hk := keyNumber_fault_of_lt (b := s.readV x) (by omega)
  have e : (⟨(s.readV x).toNat, by omega⟩ : Key) = k := Fin.ext h
  rw [e] at hk
  simp only [execSkp, keyIndexPolicy_eq, hk]

theorem execSkp_of_gt {s : State} {x : Reg} (h : 15 < (s.readV x).toNat) :
    execSkp x s = .next (s.raise .keyRange (encode (.skp x))) := by
  simp only [execSkp, keyIndexPolicy_eq, (keyNumber_fault_eq_none (s.readV x)).2 h]

theorem execSknp_of_le {s : State} {x : Reg} (k : Key) (h : (s.readV x).toNat = k.val) :
    execSknp x s = .next (s.advance.skipIf (!s.keyPressed k)) := by
  have hk := keyNumber_fault_of_lt (b := s.readV x) (by omega)
  have e : (⟨(s.readV x).toNat, by omega⟩ : Key) = k := Fin.ext h
  rw [e] at hk
  simp only [execSknp, keyIndexPolicy_eq, hk]

theorem execSknp_of_gt {s : State} {x : Reg} (h : 15 < (s.readV x).toNat) :
    execSknp x s = .next (s.raise .keyRange (encode (.sknp x))) := by
  simp only [execSknp, keyIndexPolicy_eq, (keyNumber_fault_eq_none (s.readV x)).2 h]

theorem execLdVxK_of_some {s : State} {k : Key} (x : Reg) (h : s.selectKey = some k) :
    execLdVxK x s = .next (s.advance.writeV x (keyByte k)) := by
  simp only [execLdVxK, h]

theorem execLdVxK_of_none {s : State} (x : Reg) (h : s.selectKey = none) :
    execLdVxK x s = .next (s.advance.setRun (.waitKey x)) := by
  simp only [execLdVxK, h]

/-- Every instruction answers a next state (R117, R272). -/
theorem exec_next (i : Instr) (s : State) : ∃ t, exec i s = .next t := by
  cases i
  case ret => exact execRet_next s
  case call nnn => exact execCall_next nnn s
  case skp x => exact execSkp_next x s
  case sknp x => exact execSknp_next x s
  case ldVxK x => exact execLdVxK_next x s
  all_goals exact ⟨_, rfl⟩

/-- Every step of a running core answers a next state (R117, R140). -/
theorem State.runInstruction_next (s : State) : ∃ t, s.runInstruction = .next t := by
  unfold State.runInstruction
  split
  · exact exec_next _ s
  · exact ⟨_, rfl⟩

/-! Inversion: everything a branching meaning can do, its guard included. -/

variable {s t : State}

theorem execRet_cases (h : execRet s = .next t) :
    (0 < s.sp.val ∧ ∃ (h0 : s.sp.val - 1 < 16) (h1 : s.sp.val - 1 < 17),
      t = (s.advance.setSp ⟨s.sp.val - 1, h1⟩).setPc (s.stack[s.sp.val - 1])) ∨
    (s.sp.val = 0 ∧ t = s.raise .stackUnderflow (encode .ret)) := by
  have := s.sp.isLt
  by_cases h0 : s.sp.val = 0
  · rw [execRet_of_empty h0] at h
    injection h with h
    exact Or.inr ⟨h0, h.symm⟩
  · rw [execRet_of_pos (by omega)] at h
    injection h with h
    exact Or.inl ⟨by omega, by omega, by omega, h.symm⟩

theorem execCall_cases {nnn : Addr} (h : execCall nnn s = .next t) :
    (∃ h1 : s.sp.val < 16, t = ((s.advance.setStack (s.stack.set s.sp.val (s.pc + 2#16))).setSp
      ⟨s.sp.val + 1, Nat.succ_lt_succ h1⟩).setPc nnn.zext) ∨
    (s.sp.val = 16 ∧ t = s.raise .stackOverflow (encode (.call nnn))) := by
  have := s.sp.isLt
  by_cases h0 : s.sp.val = 16
  · rw [execCall_of_full nnn h0] at h
    injection h with h
    exact Or.inr ⟨h0, h.symm⟩
  · rw [execCall_of_lt nnn (by omega)] at h
    injection h with h
    exact Or.inl ⟨by omega, h.symm⟩

theorem execSkp_cases {x : Reg} (h : execSkp x s = .next t) :
    (∃ k : Key, (s.readV x).toNat = k.val ∧ t = s.advance.skipIf (s.keyPressed k)) ∨
    (15 < (s.readV x).toNat ∧ t = s.raise .keyRange (encode (.skp x))) := by
  by_cases h0 : (s.readV x).toNat < 16
  · rw [execSkp_of_le ⟨_, h0⟩ rfl] at h
    injection h with h
    exact Or.inl ⟨⟨_, h0⟩, rfl, h.symm⟩
  · rw [execSkp_of_gt (by omega)] at h
    injection h with h
    exact Or.inr ⟨by omega, h.symm⟩

theorem execSknp_cases {x : Reg} (h : execSknp x s = .next t) :
    (∃ k : Key, (s.readV x).toNat = k.val ∧ t = s.advance.skipIf (!s.keyPressed k)) ∨
    (15 < (s.readV x).toNat ∧ t = s.raise .keyRange (encode (.sknp x))) := by
  by_cases h0 : (s.readV x).toNat < 16
  · rw [execSknp_of_le ⟨_, h0⟩ rfl] at h
    injection h with h
    exact Or.inl ⟨⟨_, h0⟩, rfl, h.symm⟩
  · rw [execSknp_of_gt (by omega)] at h
    injection h with h
    exact Or.inr ⟨by omega, h.symm⟩

theorem execLdVxK_cases {x : Reg} (h : execLdVxK x s = .next t) :
    (∃ k, s.selectKey = some k ∧ t = s.advance.writeV x (keyByte k)) ∨
    (s.selectKey = none ∧ t = s.advance.setRun (.waitKey x)) := by
  cases e : s.selectKey with
  | none =>
    rw [execLdVxK_of_none x e] at h
    injection h with h
    exact Or.inr ⟨rfl, h.symm⟩
  | some k =>
    rw [execLdVxK_of_some x e] at h
    injection h with h
    exact Or.inl ⟨k, rfl, h.symm⟩

/-- A step of a running core runs the decoded instruction or logs the unmapped word (R140). -/
theorem State.runInstruction_cases (h : s.runInstruction = .next t) :
    (∃ i, decode s.fetchWord = .instr i ∧ exec i s = .next t) ∨
    (∃ op, decode s.fetchWord = .unmapped op ∧ t = s.unmappedNop op) := by
  unfold State.runInstruction at h
  split at h
  · rename_i i e
    exact Or.inl ⟨i, e, h⟩
  · rename_i op e
    injection h with h
    exact Or.inr ⟨op, e, h.symm⟩

/-- The core's step: an instruction in `RUN`, the completion of a key wait in `WAIT_KEY`, nothing else (R140). -/
theorem State.coreStep_cases (h : s.coreStep = .next t) :
    (s.run = .running ∧ s.runInstruction = .next t) ∨
    (∃ x k, s.run = .waitKey x ∧ s.selectKey = some k ∧ t = (s.writeV x (keyByte k)).setRun .running) := by
  unfold State.coreStep at h
  split at h
  · rename_i e
    exact Or.inl ⟨e, h⟩
  · rename_i x e
    cases hk : s.selectKey with
    | none => simp [State.completeWait, hk] at h
    | some k =>
      simp [State.completeWait, hk] at h
      exact Or.inr ⟨x, k, e, rfl, h.symm⟩
  · cases h

end Sys2Proof.Machine
end

