-- ==== Sys2Proof/Laws/Framebuffer.lean ====
section
/-! SUPPORT. What one plot and one sprite column do to each pixel (44_display.md R231, R232). -/

namespace Sys2Proof.Machine

@[simp] theorem Framebuffer.pixel_blank (px : Fin 64) (py : Fin 32) : Framebuffer.blank.pixel px py = false := by
  simp [Framebuffer.pixel, Framebuffer.blank]

/-- A toggle inverts its own pixel and leaves every other. -/
theorem Framebuffer.pixel_toggle (fb : Framebuffer) (px qx : Fin 64) (py qy : Fin 32) :
    (fb.toggle px py).pixel qx qy = (fb.pixel qx qy ^^ decide (qx = px ∧ qy = py)) := by
  by_cases hy : py = qy
  · subst hy
    by_cases hx : qx = px
    · subst hx
      simp [Framebuffer.pixel, Framebuffer.toggle]
    · have hx' : ¬ (qx.val = px.val) := fun e => hx (Fin.ext e)
      simp [Framebuffer.pixel, Framebuffer.toggle, hx, hx']
  · have hy' : py.val ≠ qy.val := fun e => hy (Fin.ext e)
    simp [Framebuffer.pixel, Framebuffer.toggle, hy', Ne.symm hy]

@[simp] theorem Framebuffer.plot_fst (fb : Framebuffer) (px : Fin 64) (py : Fin 32) :
    (fb.plot px py).1 = fb.toggle px py := rfl

/-- A plot reports a collision exactly when its pixel was lit (R232). -/
@[simp] theorem Framebuffer.plot_snd (fb : Framebuffer) (px : Fin 64) (py : Fin 32) :
    (fb.plot px py).2 = fb.pixel px py := by
  simp [Framebuffer.plot, Framebuffer.pixel_toggle]

/-- One sprite column: its pixel, if it is on the grid, is XORed with the sprite's bit; every other pixel is left. -/
theorem drawBit_pixel (row : Byte) (ox py c : Nat) (acc : Framebuffer × Bool) (qx : Fin 64) (qy : Fin 32) :
    (drawBit row ox py c acc).1.pixel qx qy =
      (acc.1.pixel qx qy ^^ (decide (qx.val = ox + c ∧ qy.val = py) && spriteBit row c)) := by
  unfold drawBit
  split
  · split
    · next h hb => simp [Framebuffer.pixel_toggle, Fin.ext_iff, hb]
    · next h hb => simp [hb]
  · next h =>
    have : ¬ (qx.val = ox + c ∧ qy.val = py) := by
      rintro ⟨hx, hy⟩
      exact h ⟨hx ▸ qx.isLt, hy ▸ qy.isLt⟩
    simp [this]

/-- One sprite column reports a collision exactly when its bit is 1, its pixel on the grid, and that pixel lit. -/
theorem drawBit_hit (row : Byte) (ox py c : Nat) (acc : Framebuffer × Bool) :
    (drawBit row ox py c acc).2 = true ↔
      acc.2 = true ∨ spriteBit row c = true ∧
        ∃ (qx : Fin 64) (qy : Fin 32), qx.val = ox + c ∧ qy.val = py ∧ acc.1.pixel qx qy = true := by
  unfold drawBit
  split
  · next h =>
    split
    · next hb =>
      simp only [Framebuffer.plot_snd, Bool.or_eq_true, hb, true_and]
      refine or_congr Iff.rfl ⟨fun hp => ⟨⟨ox + c, h.1⟩, ⟨py, h.2⟩, rfl, rfl, hp⟩, ?_⟩
      rintro ⟨qx, qy, hx, hy, hp⟩
      have e1 : qx = ⟨ox + c, h.1⟩ := Fin.ext hx
      have e2 : qy = ⟨py, h.2⟩ := Fin.ext hy
      rwa [e1, e2] at hp
    · next hb => simp [hb]
  · next h =>
    constructor
    · exact Or.inl
    · rintro (ha | ⟨-, qx, qy, hx, hy, -⟩)
      · exact ha
      · exact absurd ⟨hx ▸ qx.isLt, hy ▸ qy.isLt⟩ h

end Sys2Proof.Machine
end

