-- ==== Sys2Proof/Laws/PerInstr.lean ====
section
/-! SUPPORT. Statements for all instructions, one lemma for each constructor. The family RoundTrip: decoding the word an
instruction is encoded to gives it back, whatever its operands (30_encoding.md R115, R120). -/

namespace Sys2Proof.Laws.RoundTrip

/-- Decoding the encoded instruction gives it back, if it stands for a word. -/
def Statement (i : Instr) : Prop := i.wf = true → decode (encode i) = .instr i

/-- A word is given by its number: the high nibble is what is left above the 12 low bits. -/
theorem high_nibble {op : Word} {h low : Nat} (hop : op.toNat = h * 4096 + low) (hlow : low < 4096) : Word.h op = h := by
  simp only [Word.h]; omega

theorem cls : Statement .cls := fun _ => by decide

theorem ret : Statement .ret := fun _ => by decide

theorem jp (nnn : Addr) : Statement (.jp nnn) := fun _ => by
  have hnnn := nnn.isLt
  have hop : (encode (.jp nnn)).toNat = 1 * 4096 + nnn.toNat := by
    simp [encode]; omega
  have hh := high_nibble hop (by omega)
  rw [decode_h1 hh, Word.nnn_eq (nnn := nnn) (by rw [hop]; omega)]

theorem call (nnn : Addr) : Statement (.call nnn) := fun _ => by
  have hnnn := nnn.isLt
  have hop : (encode (.call nnn)).toNat = 2 * 4096 + nnn.toNat := by
    simp [encode]; omega
  have hh := high_nibble hop (by omega)
  rw [decode_h2 hh, Word.nnn_eq (nnn := nnn) (by rw [hop]; omega)]

theorem seVxNn (x : Reg) (nn : Byte) : Statement (.seVxNn x nn) := fun _ => by
  have hx := x.isLt
  have hnn := nn.isLt
  have hop : (encode (.seVxNn x nn)).toNat = 3 * 4096 + (x.val * 256 + nn.toNat) := by
    simp [encode]; omega
  have hh := high_nibble hop (by omega)
  rw [decode_h3 hh, Word.x_eq (x := x) (by rw [hop]; omega), Word.nn_eq (nn := nn) (by rw [hop]; omega)]

theorem sneVxNn (x : Reg) (nn : Byte) : Statement (.sneVxNn x nn) := fun _ => by
  have hx := x.isLt
  have hnn := nn.isLt
  have hop : (encode (.sneVxNn x nn)).toNat = 4 * 4096 + (x.val * 256 + nn.toNat) := by
    simp [encode]; omega
  have hh := high_nibble hop (by omega)
  rw [decode_h4 hh, Word.x_eq (x := x) (by rw [hop]; omega), Word.nn_eq (nn := nn) (by rw [hop]; omega)]

theorem seVxVy (x : Reg) (y : Reg) : Statement (.seVxVy x y) := fun _ => by
  have hx := x.isLt
  have hy := y.isLt
  have hop : (encode (.seVxVy x y)).toNat = 5 * 4096 + (x.val * 256 + y.val * 16 + 0) := by
    simp [encode]; omega
  have hh := high_nibble hop (by omega)
  have hs : (Word.n (encode (.seVxVy x y))).val = 0 := by simp only [Word.n, hop]; omega
  rw [decode_h5 hh, if_pos hs, Word.x_eq (x := x) (by rw [hop]; omega), Word.y_eq (y := y) (by rw [hop]; omega)]

theorem ldVxNn (x : Reg) (nn : Byte) : Statement (.ldVxNn x nn) := fun _ => by
  have hx := x.isLt
  have hnn := nn.isLt
  have hop : (encode (.ldVxNn x nn)).toNat = 6 * 4096 + (x.val * 256 + nn.toNat) := by
    simp [encode]; omega
  have hh := high_nibble hop (by omega)
  rw [decode_h6 hh, Word.x_eq (x := x) (by rw [hop]; omega), Word.nn_eq (nn := nn) (by rw [hop]; omega)]

theorem addVxNn (x : Reg) (nn : Byte) : Statement (.addVxNn x nn) := fun _ => by
  have hx := x.isLt
  have hnn := nn.isLt
  have hop : (encode (.addVxNn x nn)).toNat = 7 * 4096 + (x.val * 256 + nn.toNat) := by
    simp [encode]; omega
  have hh := high_nibble hop (by omega)
  rw [decode_h7 hh, Word.x_eq (x := x) (by rw [hop]; omega), Word.nn_eq (nn := nn) (by rw [hop]; omega)]

theorem ldVxVy (x : Reg) (y : Reg) : Statement (.ldVxVy x y) := fun _ => by
  have hx := x.isLt
  have hy := y.isLt
  have hop : (encode (.ldVxVy x y)).toNat = 8 * 4096 + (x.val * 256 + y.val * 16 + 0) := by
    simp [encode]; omega
  have hh := high_nibble hop (by omega)
  have hs : (Word.n (encode (.ldVxVy x y))).val = 0 := by simp only [Word.n, hop]; omega
  simp only [decode_h8 hh, decodeGroup8, hs, Word.x_eq (x := x) (by rw [hop]; omega), Word.y_eq (y := y) (by rw [hop]; omega)]

theorem orVxVy (x : Reg) (y : Reg) : Statement (.orVxVy x y) := fun _ => by
  have hx := x.isLt
  have hy := y.isLt
  have hop : (encode (.orVxVy x y)).toNat = 8 * 4096 + (x.val * 256 + y.val * 16 + 1) := by
    simp [encode]; omega
  have hh := high_nibble hop (by omega)
  have hs : (Word.n (encode (.orVxVy x y))).val = 1 := by simp only [Word.n, hop]; omega
  simp only [decode_h8 hh, decodeGroup8, hs, Word.x_eq (x := x) (by rw [hop]; omega), Word.y_eq (y := y) (by rw [hop]; omega)]

theorem andVxVy (x : Reg) (y : Reg) : Statement (.andVxVy x y) := fun _ => by
  have hx := x.isLt
  have hy := y.isLt
  have hop : (encode (.andVxVy x y)).toNat = 8 * 4096 + (x.val * 256 + y.val * 16 + 2) := by
    simp [encode]; omega
  have hh := high_nibble hop (by omega)
  have hs : (Word.n (encode (.andVxVy x y))).val = 2 := by simp only [Word.n, hop]; omega
  simp only [decode_h8 hh, decodeGroup8, hs, Word.x_eq (x := x) (by rw [hop]; omega), Word.y_eq (y := y) (by rw [hop]; omega)]

theorem xorVxVy (x : Reg) (y : Reg) : Statement (.xorVxVy x y) := fun _ => by
  have hx := x.isLt
  have hy := y.isLt
  have hop : (encode (.xorVxVy x y)).toNat = 8 * 4096 + (x.val * 256 + y.val * 16 + 3) := by
    simp [encode]; omega
  have hh := high_nibble hop (by omega)
  have hs : (Word.n (encode (.xorVxVy x y))).val = 3 := by simp only [Word.n, hop]; omega
  simp only [decode_h8 hh, decodeGroup8, hs, Word.x_eq (x := x) (by rw [hop]; omega), Word.y_eq (y := y) (by rw [hop]; omega)]

theorem addVxVy (x : Reg) (y : Reg) : Statement (.addVxVy x y) := fun _ => by
  have hx := x.isLt
  have hy := y.isLt
  have hop : (encode (.addVxVy x y)).toNat = 8 * 4096 + (x.val * 256 + y.val * 16 + 4) := by
    simp [encode]; omega
  have hh := high_nibble hop (by omega)
  have hs : (Word.n (encode (.addVxVy x y))).val = 4 := by simp only [Word.n, hop]; omega
  simp only [decode_h8 hh, decodeGroup8, hs, Word.x_eq (x := x) (by rw [hop]; omega), Word.y_eq (y := y) (by rw [hop]; omega)]

theorem subVxVy (x : Reg) (y : Reg) : Statement (.subVxVy x y) := fun _ => by
  have hx := x.isLt
  have hy := y.isLt
  have hop : (encode (.subVxVy x y)).toNat = 8 * 4096 + (x.val * 256 + y.val * 16 + 5) := by
    simp [encode]; omega
  have hh := high_nibble hop (by omega)
  have hs : (Word.n (encode (.subVxVy x y))).val = 5 := by simp only [Word.n, hop]; omega
  simp only [decode_h8 hh, decodeGroup8, hs, Word.x_eq (x := x) (by rw [hop]; omega), Word.y_eq (y := y) (by rw [hop]; omega)]

theorem shrVx (x : Reg) (y : Reg) : Statement (.shrVx x y) := fun _ => by
  have hx := x.isLt
  have hy := y.isLt
  have hop : (encode (.shrVx x y)).toNat = 8 * 4096 + (x.val * 256 + y.val * 16 + 6) := by
    simp [encode]; omega
  have hh := high_nibble hop (by omega)
  have hs : (Word.n (encode (.shrVx x y))).val = 6 := by simp only [Word.n, hop]; omega
  simp only [decode_h8 hh, decodeGroup8, hs, Word.x_eq (x := x) (by rw [hop]; omega), Word.y_eq (y := y) (by rw [hop]; omega)]

theorem subnVxVy (x : Reg) (y : Reg) : Statement (.subnVxVy x y) := fun _ => by
  have hx := x.isLt
  have hy := y.isLt
  have hop : (encode (.subnVxVy x y)).toNat = 8 * 4096 + (x.val * 256 + y.val * 16 + 7) := by
    simp [encode]; omega
  have hh := high_nibble hop (by omega)
  have hs : (Word.n (encode (.subnVxVy x y))).val = 7 := by simp only [Word.n, hop]; omega
  simp only [decode_h8 hh, decodeGroup8, hs, Word.x_eq (x := x) (by rw [hop]; omega), Word.y_eq (y := y) (by rw [hop]; omega)]

theorem shlVx (x : Reg) (y : Reg) : Statement (.shlVx x y) := fun _ => by
  have hx := x.isLt
  have hy := y.isLt
  have hop : (encode (.shlVx x y)).toNat = 8 * 4096 + (x.val * 256 + y.val * 16 + 14) := by
    simp [encode]; omega
  have hh := high_nibble hop (by omega)
  have hs : (Word.n (encode (.shlVx x y))).val = 14 := by simp only [Word.n, hop]; omega
  simp only [decode_h8 hh, decodeGroup8, hs, Word.x_eq (x := x) (by rw [hop]; omega), Word.y_eq (y := y) (by rw [hop]; omega)]

theorem sneVxVy (x : Reg) (y : Reg) : Statement (.sneVxVy x y) := fun _ => by
  have hx := x.isLt
  have hy := y.isLt
  have hop : (encode (.sneVxVy x y)).toNat = 9 * 4096 + (x.val * 256 + y.val * 16 + 0) := by
    simp [encode]; omega
  have hh := high_nibble hop (by omega)
  have hs : (Word.n (encode (.sneVxVy x y))).val = 0 := by simp only [Word.n, hop]; omega
  rw [decode_h9 hh, if_pos hs, Word.x_eq (x := x) (by rw [hop]; omega), Word.y_eq (y := y) (by rw [hop]; omega)]

theorem ldINnn (nnn : Addr) : Statement (.ldINnn nnn) := fun _ => by
  have hnnn := nnn.isLt
  have hop : (encode (.ldINnn nnn)).toNat = 10 * 4096 + nnn.toNat := by
    simp [encode]; omega
  have hh := high_nibble hop (by omega)
  rw [decode_hA hh, Word.nnn_eq (nnn := nnn) (by rw [hop]; omega)]

theorem jpV0 (nnn : Addr) : Statement (.jpV0 nnn) := fun _ => by
  have hnnn := nnn.isLt
  have hop : (encode (.jpV0 nnn)).toNat = 11 * 4096 + nnn.toNat := by
    simp [encode]; omega
  have hh := high_nibble hop (by omega)
  rw [decode_hB hh, Word.nnn_eq (nnn := nnn) (by rw [hop]; omega)]

theorem rndVxNn (x : Reg) (nn : Byte) : Statement (.rndVxNn x nn) := fun _ => by
  have hx := x.isLt
  have hnn := nn.isLt
  have hop : (encode (.rndVxNn x nn)).toNat = 12 * 4096 + (x.val * 256 + nn.toNat) := by
    simp [encode]; omega
  have hh := high_nibble hop (by omega)
  rw [decode_hC hh, Word.x_eq (x := x) (by rw [hop]; omega), Word.nn_eq (nn := nn) (by rw [hop]; omega)]

theorem drw (x : Reg) (y : Reg) (n : Fin 16) : Statement (.drw x y n) := fun _ => by
  have hx := x.isLt
  have hy := y.isLt
  have hn := n.isLt
  have hop : (encode (.drw x y n)).toNat = 13 * 4096 + (x.val * 256 + y.val * 16 + n.val) := by
    simp [encode]; omega
  have hh := high_nibble hop (by omega)
  rw [decode_hD hh, Word.x_eq (x := x) (by rw [hop]; omega), Word.y_eq (y := y) (by rw [hop]; omega), Word.n_eq (n := n) (by rw [hop]; omega)]

theorem skp (x : Reg) : Statement (.skp x) := fun _ => by
  have hx := x.isLt
  have hop : (encode (.skp x)).toNat = 14 * 4096 + (x.val * 256 + 158) := by
    simp [encode]; omega
  have hh := high_nibble hop (by omega)
  have hs : (Word.nn (encode (.skp x))).toNat = 158 := by rw [Word.toNat_nn, hop]; omega
  simp only [decode_hE hh, decodeGroupE, hs, Word.x_eq (x := x) (by rw [hop]; omega)]

theorem sknp (x : Reg) : Statement (.sknp x) := fun _ => by
  have hx := x.isLt
  have hop : (encode (.sknp x)).toNat = 14 * 4096 + (x.val * 256 + 161) := by
    simp [encode]; omega
  have hh := high_nibble hop (by omega)
  have hs : (Word.nn (encode (.sknp x))).toNat = 161 := by rw [Word.toNat_nn, hop]; omega
  simp only [decode_hE hh, decodeGroupE, hs, Word.x_eq (x := x) (by rw [hop]; omega)]

theorem ldVxDt (x : Reg) : Statement (.ldVxDt x) := fun _ => by
  have hx := x.isLt
  have hop : (encode (.ldVxDt x)).toNat = 15 * 4096 + (x.val * 256 + 7) := by
    simp [encode]; omega
  have hh := high_nibble hop (by omega)
  have hs : (Word.nn (encode (.ldVxDt x))).toNat = 7 := by rw [Word.toNat_nn, hop]; omega
  simp only [decode_hF hh, decodeGroupF, hs, Word.x_eq (x := x) (by rw [hop]; omega)]

theorem ldVxK (x : Reg) : Statement (.ldVxK x) := fun _ => by
  have hx := x.isLt
  have hop : (encode (.ldVxK x)).toNat = 15 * 4096 + (x.val * 256 + 10) := by
    simp [encode]; omega
  have hh := high_nibble hop (by omega)
  have hs : (Word.nn (encode (.ldVxK x))).toNat = 10 := by rw [Word.toNat_nn, hop]; omega
  simp only [decode_hF hh, decodeGroupF, hs, Word.x_eq (x := x) (by rw [hop]; omega)]

theorem ldDtVx (x : Reg) : Statement (.ldDtVx x) := fun _ => by
  have hx := x.isLt
  have hop : (encode (.ldDtVx x)).toNat = 15 * 4096 + (x.val * 256 + 21) := by
    simp [encode]; omega
  have hh := high_nibble hop (by omega)
  have hs : (Word.nn (encode (.ldDtVx x))).toNat = 21 := by rw [Word.toNat_nn, hop]; omega
  simp only [decode_hF hh, decodeGroupF, hs, Word.x_eq (x := x) (by rw [hop]; omega)]

theorem ldStVx (x : Reg) : Statement (.ldStVx x) := fun _ => by
  have hx := x.isLt
  have hop : (encode (.ldStVx x)).toNat = 15 * 4096 + (x.val * 256 + 24) := by
    simp [encode]; omega
  have hh := high_nibble hop (by omega)
  have hs : (Word.nn (encode (.ldStVx x))).toNat = 24 := by rw [Word.toNat_nn, hop]; omega
  simp only [decode_hF hh, decodeGroupF, hs, Word.x_eq (x := x) (by rw [hop]; omega)]

theorem addIVx (x : Reg) : Statement (.addIVx x) := fun _ => by
  have hx := x.isLt
  have hop : (encode (.addIVx x)).toNat = 15 * 4096 + (x.val * 256 + 30) := by
    simp [encode]; omega
  have hh := high_nibble hop (by omega)
  have hs : (Word.nn (encode (.addIVx x))).toNat = 30 := by rw [Word.toNat_nn, hop]; omega
  simp only [decode_hF hh, decodeGroupF, hs, Word.x_eq (x := x) (by rw [hop]; omega)]

theorem ldFVx (x : Reg) : Statement (.ldFVx x) := fun _ => by
  have hx := x.isLt
  have hop : (encode (.ldFVx x)).toNat = 15 * 4096 + (x.val * 256 + 41) := by
    simp [encode]; omega
  have hh := high_nibble hop (by omega)
  have hs : (Word.nn (encode (.ldFVx x))).toNat = 41 := by rw [Word.toNat_nn, hop]; omega
  simp only [decode_hF hh, decodeGroupF, hs, Word.x_eq (x := x) (by rw [hop]; omega)]

theorem ldBVx (x : Reg) : Statement (.ldBVx x) := fun _ => by
  have hx := x.isLt
  have hop : (encode (.ldBVx x)).toNat = 15 * 4096 + (x.val * 256 + 51) := by
    simp [encode]; omega
  have hh := high_nibble hop (by omega)
  have hs : (Word.nn (encode (.ldBVx x))).toNat = 51 := by rw [Word.toNat_nn, hop]; omega
  simp only [decode_hF hh, decodeGroupF, hs, Word.x_eq (x := x) (by rw [hop]; omega)]

theorem ldMemVx (x : Reg) : Statement (.ldMemVx x) := fun _ => by
  have hx := x.isLt
  have hop : (encode (.ldMemVx x)).toNat = 15 * 4096 + (x.val * 256 + 85) := by
    simp [encode]; omega
  have hh := high_nibble hop (by omega)
  have hs : (Word.nn (encode (.ldMemVx x))).toNat = 85 := by rw [Word.toNat_nn, hop]; omega
  simp only [decode_hF hh, decodeGroupF, hs, Word.x_eq (x := x) (by rw [hop]; omega)]

theorem ldVxMem (x : Reg) : Statement (.ldVxMem x) := fun _ => by
  have hx := x.isLt
  have hop : (encode (.ldVxMem x)).toNat = 15 * 4096 + (x.val * 256 + 101) := by
    simp [encode]; omega
  have hh := high_nibble hop (by omega)
  have hs : (Word.nn (encode (.ldVxMem x))).toNat = 101 := by rw [Word.toNat_nn, hop]; omega
  simp only [decode_hF hh, decodeGroupF, hs, Word.x_eq (x := x) (by rw [hop]; omega)]

theorem sysNnn (nnn : Addr) : Statement (.sysNnn nnn) := fun hwf => by
  have hnnn := nnn.isLt
  have hop : (encode (.sysNnn nnn)).toNat = 0 * 4096 + nnn.toNat := by simp [encode]
  have hh := high_nibble hop (by omega)
  simp only [Instr.wf, Bool.and_eq_true, bne_iff_ne, ne_eq] at hwf
  have h1 : nnn.toNat ≠ 0x0E0 := fun e => hwf.1 (BitVec.eq_of_toNat_eq e)
  have h2 : nnn.toNat ≠ 0x0EE := fun e => hwf.2 (BitVec.eq_of_toNat_eq e)
  rw [decode_h0 hh, decodeGroup0, Word.nnn_eq (nnn := nnn) (by rw [hop]; omega)]
  split
  · next he => omega
  · next he => omega
  · rfl

end Sys2Proof.Laws.RoundTrip
end

