-- ==== Sys2Proof/Laws/Step.lean ====
section
/-! SUPPORT. Everything a transaction and a step can do to the state, said once (10_state.md R53 to R55). -/

namespace Sys2Proof.Machine

/-- What one transaction may make of the state. -/
inductive Change (s : State) : State → Prop
  /-- Nothing: a query, a refusal, a core with no enabled step. -/
  | same : Change s s
  | core {t : State} : s.coreStep = .next t → Change s t
  | timers (now : Rat) : Change s (s.advanceTimers now)
  | load (bytes : List Byte) : bytes.length ≤ Config.maxImage →
      Change s (s.setMem (s.mem.storeBytes Config.programStart bytes))
  | key (k : Key) (pressed : Bool) : Change s (s.writeKey k pressed)
  | rate (hz : Rat) : 0 < hz → Change s (s.setRate hz)
  | stamp (now : Rat) : Change s (s.setTLast now)
  | reset (t0 hz : Rat) : 0 ≤ t0 → 0 < hz → Change s (s.resetAgain t0 hz)

/-- A transaction changes the state in one of these ways, and only `RESET` resets. -/
theorem State.transact_cases (s : State) (tx : Transaction) :
    Change s (s.transact tx).2 ∧
    ((∃ t0 hz, tx = .reset t0 hz) ∨ (s.transact tx).2 = s ∨ s.coreStep = .next (s.transact tx).2 ∨
      (s.transact tx).2.run = s.run) := by
  cases tx with
  | reset t0 hz =>
    refine ⟨?_, Or.inl ⟨t0, hz, rfl⟩⟩
    simp only [State.transact]
    split
    · rename_i h
      exact .reset t0 hz h.1 h.2
    · exact .same
  | loadProgram bytes =>
    simp only [State.transact, State.loadProgram]
    split
    · exact ⟨.same, Or.inr (Or.inl rfl)⟩
    · rename_i h
      exact ⟨.load bytes (by omega), Or.inr (Or.inr (Or.inr rfl))⟩
  | coreStep =>
    simp only [State.transact, State.stepTransaction]
    split
    · rename_i h
      exact ⟨.core h, Or.inr (Or.inr (Or.inl h))⟩
    · exact ⟨.same, Or.inr (Or.inl rfl)⟩
    · exact ⟨.same, Or.inr (Or.inl rfl)⟩
    · exact ⟨.same, Or.inr (Or.inl rfl)⟩
  | advanceTimers now =>
    refine ⟨.timers now, Or.inr (Or.inr (Or.inr ?_))⟩
    simp only [State.transact, State.advanceTimers]
    split <;> rfl
  | snapshotFramebuffer => exact ⟨.same, Or.inr (Or.inl rfl)⟩
  | setKeyState key pressed =>
    simp only [State.transact, State.setKeyState]
    split
    · exact ⟨.key _ pressed, Or.inr (Or.inr (Or.inr rfl))⟩
    · exact ⟨.same, Or.inr (Or.inl rfl)⟩
  | isSoundActive => exact ⟨.same, Or.inr (Or.inl rfl)⟩
  | setInstructionRate hz =>
    simp only [State.transact, State.setInstructionRate]
    split
    · rename_i h
      exact ⟨.rate hz h, Or.inr (Or.inr (Or.inr rfl))⟩
    · exact ⟨.same, Or.inr (Or.inl rfl)⟩
  | inspect => exact ⟨.same, Or.inr (Or.inl rfl)⟩
  | stepEnded now => exact ⟨.stamp now, Or.inr (Or.inr (Or.inr rfl))⟩

/-- A step is the core's when nothing is scheduled, and else the first transaction scheduled, taken off the schedule (R54). -/
theorem step_cases {s t : State} (h : step s = .next t) :
    (s.schedule = [] ∧ s.coreStep = .next t) ∨
    ∃ tx rest, s.schedule = tx :: rest ∧ t = ((s.setSchedule rest).transact tx).2 := by
  unfold step State.nextTransaction at h
  split at h
  · rename_i e
    exact Or.inl ⟨e, h⟩
  · rename_i tx rest e
    injection h with h
    exact Or.inr ⟨tx, rest, e, h.symm⟩

theorem step_of_idle {s : State} (h : s.schedule = []) : step s = s.coreStep := by
  simp only [step, State.nextTransaction, h]

theorem step_of_scheduled {s : State} {tx : Transaction} {rest : List Transaction} (h : s.schedule = tx :: rest) :
    step s = .next ((s.setSchedule rest).transact tx).2 := by
  simp only [step, State.nextTransaction, h]

/-- `advance_timers` leaves the state as it is, or takes `k` ticks from both counters and moves `t_ref` forward (R280). -/
theorem State.advanceTimers_cases (s : State) (now : Rat) :
    s.advanceTimers now = s ∨
    ∃ (k : Nat) (r : Rat), s.advanceTimers now = (s.tick k).setTRef (s.tRef + r) ∧ 0 ≤ r := by
  unfold State.advanceTimers
  split
  · rename_i h
    refine Or.inr ⟨_, _, rfl, div_nonneg ?_ (by simp [Config.timerHz])⟩
    have h0 : (0 : Int) ≤ s.ticksElapsed now := by omega
    exact_mod_cast h0
  · exact Or.inl rfl

/-- A decayed counter is the counter less the ticks, floored at 0. -/
theorem toNat_decay (c : Byte) (k : Nat) : (decay c k).toNat = c.toNat - k := by
  have := c.isLt
  simp only [decay, BitVec.toNat_ofNat]
  omega

end Sys2Proof.Machine
end

