-- ==== Sys2Proof/Tests/Slice0.lean ====
section
/-! SUPPORT. Tests of the model against spec/95_test_vectors.md and the examples of the rules (the id of the vector stands at
each test), the smoke test of WellFormed, and the decoding of every row, its word written out bit by bit from the pattern of
30_encoding.md R115. -/

namespace Sys2Proof.Machine.Tests

/-- The reset state with the word `w` at 0x200. -/
def start (w : Nat) : State := State.reset.withFetchWord 16 w

/-- What `f` shows of the state after one step. -/
def after {α : Type} (s : State) (f : State → α) : Option α :=
  match step s with
  | .next t => some (f t)
  | .fault _ => none
  | .refused _ => none

/-- The pixels lit in one row, by column. -/
def lit (fb : Framebuffer) (py : Fin 32) : List Nat :=
  ((List.finRange 64).filter fun px => fb.pixel px py).map Fin.val

/-! WellFormed refuses the two ill-formed terms. -/

theorem test_wf_refuses_sys_cls : Instr.wf (.sysNnn 0x0E0#12) = false := by decide
theorem test_wf_refuses_sys_ret : Instr.wf (.sysNnn 0x0EE#12) = false := by decide
theorem test_wf_admits_sys : Instr.wf (.sysNnn 0x123#12) = true := by decide

/-! Decoding, a word for each row (R115). -/

theorem test_decode_cls : decode 0b0000000011100000#16 = .instr .cls := by decide
theorem test_decode_ret : decode 0b0000000011101110#16 = .instr .ret := by decide
theorem test_decode_jp : decode 0b0001001010101000#16 = .instr (.jp 0x2A8#12) := by decide
theorem test_decode_call : decode 0b0010010000000001#16 = .instr (.call 0x401#12) := by decide
theorem test_decode_seVxNn : decode 0b0011001101000010#16 = .instr (.seVxNn 3 0x42#8) := by decide
theorem test_decode_sneVxNn : decode 0b0100001101000010#16 = .instr (.sneVxNn 3 0x42#8) := by decide
theorem test_decode_seVxVy : decode 0b0101000100100000#16 = .instr (.seVxVy 1 2) := by decide
theorem test_decode_ldVxNn : decode 0b0110101000101111#16 = .instr (.ldVxNn 10 0x2F#8) := by decide
theorem test_decode_addVxNn : decode 0b0111000000000101#16 = .instr (.addVxNn 0 0x05#8) := by decide
theorem test_decode_ldVxVy : decode 0b1000000100100000#16 = .instr (.ldVxVy 1 2) := by decide
theorem test_decode_orVxVy : decode 0b1000000100100001#16 = .instr (.orVxVy 1 2) := by decide
theorem test_decode_andVxVy : decode 0b1000000100100010#16 = .instr (.andVxVy 1 2) := by decide
theorem test_decode_xorVxVy : decode 0b1000000100100011#16 = .instr (.xorVxVy 1 2) := by decide
theorem test_decode_addVxVy : decode 0b1000000000010100#16 = .instr (.addVxVy 0 1) := by decide
theorem test_decode_subVxVy : decode 0b1000000100100101#16 = .instr (.subVxVy 1 2) := by decide
theorem test_decode_shrVx : decode 0b1000000100100110#16 = .instr (.shrVx 1 2) := by decide
theorem test_decode_subnVxVy : decode 0b1000000100100111#16 = .instr (.subnVxVy 1 2) := by decide
theorem test_decode_shlVx : decode 0b1000000100101110#16 = .instr (.shlVx 1 2) := by decide
theorem test_decode_sneVxVy : decode 0b1001000100100000#16 = .instr (.sneVxVy 1 2) := by decide
theorem test_decode_ldINnn : decode 0b1010001011110000#16 = .instr (.ldINnn 0x2F0#12) := by decide
theorem test_decode_jpV0 : decode 0b1011111111111110#16 = .instr (.jpV0 0xFFE#12) := by decide
theorem test_decode_rndVxNn : decode 0b1100001100001111#16 = .instr (.rndVxNn 3 0x0F#8) := by decide
theorem test_decode_drw : decode 0b1101001101000101#16 = .instr (.drw 3 4 5) := by decide
theorem test_decode_skp : decode 0b1110000110011110#16 = .instr (.skp 1) := by decide
theorem test_decode_sknp : decode 0b1110000110100001#16 = .instr (.sknp 1) := by decide
theorem test_decode_ldVxDt : decode 0b1111010000000111#16 = .instr (.ldVxDt 4) := by decide
theorem test_decode_ldVxK : decode 0b1111010000001010#16 = .instr (.ldVxK 4) := by decide
theorem test_decode_ldDtVx : decode 0b1111010100010101#16 = .instr (.ldDtVx 5) := by decide
theorem test_decode_ldStVx : decode 0b1111010100011000#16 = .instr (.ldStVx 5) := by decide
theorem test_decode_addIVx : decode 0b1111001000011110#16 = .instr (.addIVx 2) := by decide
theorem test_decode_ldFVx : decode 0b1111000000101001#16 = .instr (.ldFVx 0) := by decide
theorem test_decode_ldBVx : decode 0b1111010100110011#16 = .instr (.ldBVx 5) := by decide
theorem test_decode_ldMemVx : decode 0b1111001001010101#16 = .instr (.ldMemVx 2) := by decide
theorem test_decode_ldVxMem : decode 0b1111001001100101#16 = .instr (.ldVxMem 2) := by decide
theorem test_decode_sysNnn : decode 0b0000000100100011#16 = .instr (.sysNnn 0x123#12) := by decide
/-- W8, F18, F21, A37 and the groups E and F: defined high nibble, undefined low bits. -/
theorem test_decode_unmapped :
    [0x8008#16, 0x5121#16, 0x912F#16, 0x812F#16, 0xE19F#16, 0xF166#16].map decode =
      [0x8008#16, 0x5121#16, 0x912F#16, 0x812F#16, 0xE19F#16, 0xF166#16].map Decoded.unmapped := by decide
/-- R120: DRW V3, V4, 5 is 0xD345; ADD V0, V1 is stored as the bytes 0x80, 0x14. -/
theorem test_encode : encode (.drw 3 4 5) = 0xD345#16 ∧ encodeBytes (.addVxVy 0 1) = [0x80#8, 0x14#8] := by decide
theorem test_decode_truncated : decodeBytes [0x80#8] = .truncated := by decide

/-! Execution cycle. -/

/-- X2. -/
theorem test_sys_is_nop : after (start 0x0123) (fun t => (t.pc, t.diag, t.run)) =
    some (0x202#16, [⟨0x200#16, 0x0123#16⟩], .running) := by decide
/-- W8. -/
theorem test_unmapped_is_nop : after (start 0x8008) (fun t => (t.pc, t.diag, t.run)) =
    some (0x202#16, [⟨0x200#16, 0x8008#16⟩], .running) := by decide
/-- X4: the word 0x602A lies at 0xFFF and 0x000. -/
theorem test_fetch_wraps : after ((State.reset.setPc 0xFFF#16).withFetchWord 16 0x602A) (fun t => (t.readV 0, t.pc)) =
    some (0x2A#8, 0x1001#16) := by decide
/-- X7. -/
theorem test_faulted_is_sticky :
    step (State.reset.setRun (.faulted ⟨.stackOverflow, 0x200#16, 0x2200#16⟩)) =
      .fault (.stopped ⟨.stackOverflow, 0x200#16, 0x2200#16⟩) := rfl
/-- X8. -/
theorem test_pc_wraps : after ((State.reset.setPc 0xFFFE#16).withFetchWord 16 0x00E0) (fun t => t.pc) =
    some 0x0000#16 := by decide

/-! Flow. -/

/-- F7. -/
theorem test_ret : after (((start 0x00EE).setSp 1).setStack (State.reset.stack.set 0 0x302#16)) (fun t => (t.pc, t.sp)) =
    some (0x302#16, 0) := by decide
/-- F8. -/
theorem test_ret_underflow : after (start 0x00EE) (fun t => (t.pc, t.sp, t.run)) =
    some (0x200#16, 0, .faulted ⟨.stackUnderflow, 0x200#16, 0x00EE#16⟩) := by decide
/-- F2. -/
theorem test_jp : after (start 0x1203) (fun t => t.pc) = some 0x203#16 := by decide
/-- F9. -/
theorem test_call : after ((State.reset.setPc 0xFFE#16).withFetchWord 16 0x2000) (fun t => (t.pc, t.sp, t.stack[0])) =
    some (0x000#16, 1, 0x1000#16) := by decide
/-- F6. -/
theorem test_call_overflow : after ((start 0x2400).setSp 16) (fun t => (t.pc, t.sp, t.run)) =
    some (0x200#16, 16, .faulted ⟨.stackOverflow, 0x200#16, 0x2400#16⟩) := by decide
/-- F10, F11. -/
theorem test_seVxNn : after ((start 0x3342).writeV 3 0x42#8) (fun t => t.pc) = some 0x204#16 ∧
    after ((start 0x3342).writeV 3 0x41#8) (fun t => t.pc) = some 0x202#16 := by decide
/-- F12, F13. -/
theorem test_sneVxNn : after ((start 0x4342).writeV 3 0x41#8) (fun t => t.pc) = some 0x204#16 ∧
    after ((start 0x4342).writeV 3 0x42#8) (fun t => t.pc) = some 0x202#16 := by decide
/-- F15, F16. -/
theorem test_seVxVy : after (((start 0x5120).writeV 1 7#8).writeV 2 7#8) (fun t => t.pc) = some 0x204#16 ∧
    after (((start 0x5120).writeV 1 7#8).writeV 2 8#8) (fun t => t.pc) = some 0x202#16 := by decide
/-- F19, F20. -/
theorem test_sneVxVy : after (((start 0x9120).writeV 1 7#8).writeV 2 8#8) (fun t => t.pc) = some 0x204#16 ∧
    after (((start 0x9120).writeV 1 7#8).writeV 2 7#8) (fun t => t.pc) = some 0x202#16 := by decide
/-- F24. -/
theorem test_jpV0 : after ((start 0xBFFF).writeV 0 0xFF#8) (fun t => t.pc) = some 0x10FE#16 := by decide

/-! Registers and arithmetic: `(V1, VF)` after the step. -/

/-- V1 = a, V2 = b, VF = 0x55, and the word `w` at 0x200. -/
def alu (w : Nat) (a b : Byte) : State := (((start w).writeV 1 a).writeV 2 b).writeV 15 0x55#8

/-- V1 and VF. -/
def v1vf (t : State) : Byte × Byte := (t.readV 1, t.readV 15)

/-- A1, A2. -/
theorem test_ldVxNn : after (alu 0x617F 0 0) v1vf = some (0x7F#8, 0x55#8) ∧
    after (alu 0x6FAB 0 0) v1vf = some (0#8, 0xAB#8) := by decide
/-- A3. -/
theorem test_addVxNn : after (alu 0x7105 0xFE#8 0) v1vf = some (0x03#8, 0x55#8) := by decide
/-- A5. -/
theorem test_ldVxVy : after (alu 0x8120 0 0x9C#8) v1vf = some (0x9C#8, 0x55#8) := by decide
/-- A6. -/
theorem test_or : after (alu 0x8121 0xF0#8 0x0F#8) v1vf = some (0xFF#8, 0x55#8) := by decide
/-- A7. -/
theorem test_and : after (alu 0x8122 0xF0#8 0x3C#8) v1vf = some (0x30#8, 0x55#8) := by decide
/-- A8. -/
theorem test_xor : after (alu 0x8123 0xFF#8 0x0F#8) v1vf = some (0xF0#8, 0x55#8) := by decide
/-- A11, A12. -/
theorem test_add_carry : after (alu 0x8124 0xFF#8 0x00#8) v1vf = some (0xFF#8, 0#8) ∧
    after (alu 0x8124 0xFF#8 0x01#8) v1vf = some (0x00#8, 1#8) := by decide
/-- A16, A17: the flag wins in VF, and VF is read before it is written. -/
theorem test_add_vf : after (((start 0x8F14).writeV 1 0x64#8).writeV 15 0xC8#8) v1vf = some (0x64#8, 1#8) ∧
    after (((start 0x81F4).writeV 1 0x05#8).writeV 15 0xC8#8) v1vf = some (0xCD#8, 0#8) := by decide
/-- A18, A19. -/
theorem test_sub : after (alu 0x8125 0x0A#8 0x0A#8) v1vf = some (0x00#8, 1#8) ∧
    after (alu 0x8125 0x00#8 0x01#8) v1vf = some (0xFF#8, 0#8) := by decide
/-- A23, A26: V2 is not read. -/
theorem test_shr : after (alu 0x8126 0x81#8 0xFF#8) v1vf = some (0x40#8, 1#8) ∧
    after (alu 0x8126 0x02#8 0xFF#8) v1vf = some (0x01#8, 0#8) := by decide
/-- A28, A29. -/
theorem test_subn : after (alu 0x8127 0x03#8 0x0A#8) v1vf = some (0x07#8, 1#8) ∧
    after (alu 0x8127 0x0A#8 0x03#8) v1vf = some (0xF9#8, 0#8) := by decide
/-- A31, A32. -/
theorem test_shl : after (alu 0x810E 0x81#8 0) v1vf = some (0x02#8, 1#8) ∧
    after (alu 0x810E 0x7F#8 0) v1vf = some (0xFE#8, 0#8) := by decide
/-- R193's example: the draw 0xA7 masked by 0x0F. -/
theorem test_rnd_mask : randomResult 0xA7#8 0x0F#8 = 0x07#8 := by decide
/-- A39: the byte drawn does not matter under the mask 0, and the draw is counted. -/
theorem test_rnd_zero_mask : after (start 0xC300) (fun t => (t.readV 3, t.draws)) = some (0x00#8, 1) := by
  simp only [after, show step (start 0xC300) = execRndVxNn 3 0x00#8 (start 0xC300) from rfl, execRndVxNn,
    State.readV, State.writeV, State.setV, Option.some.injEq, Prod.mk.injEq]
  exact ⟨by simp [randomResult], rfl⟩

/-! Index and memory. -/

/-- M2. -/
theorem test_ldINnn : after (start 0xAFFF) (fun t => t.index) = some 0xFFF#16 := by decide
/-- M3, M4. -/
theorem test_addIVx : after (((start 0xF11E).setIndex 0xFFF#16).writeV 1 1#8) (fun t => (t.index, t.readV 15)) =
      some (0x000#16, 1#8) ∧
    after (((start 0xF11E).setIndex 0xFFE#16).writeV 1 1#8) (fun t => (t.index, t.readV 15)) =
      some (0xFFF#16, 0#8) := by decide
/-- M7: VF is the addend, then the flag. -/
theorem test_addIVx_vf : after (((start 0xFF1E).setIndex 0x010#16).writeV 15 0x20#8) (fun t => (t.index, t.readV 15)) =
    some (0x030#16, 0#8) := by decide
/-- M11, M12. -/
theorem test_ldFVx : after ((start 0xF129).writeV 1 0x0F#8) (fun t => t.index) = some 0x04B#16 ∧
    after ((start 0xF129).writeV 1 0xFF#8) (fun t => t.index) = some 0x4FB#16 := by decide
/-- M17. -/
theorem test_ldBVx : after (((start 0xF133).setIndex 0xFFF#16).writeV 1 123#8)
    (fun t => (t.mem.read 0xFFF, t.mem.read 0x000, t.mem.read 0x001, t.index)) =
      some (1#8, 2#8, 3#8, 0xFFF#16) := by decide
/-- M21. -/
theorem test_ldMemVx : after ((((start 0xF155).setIndex 0xFFF#16).writeV 0 0xAA#8).writeV 1 0xBB#8)
    (fun t => (t.mem.read 0xFFF, t.mem.read 0x000, t.mem.read 0x001, t.index)) =
      some (0xAA#8, 0xBB#8, 0x90#8, 0xFFF#16) := by decide
/-- M24; V2 is kept. -/
theorem test_ldVxMem : after ((((start 0xF165).setIndex 0xFFF#16).setMem
      (((start 0xF165).mem.write 0xFFF 0x5C#8).write 0x000 0xF0#8)).writeV 2 0x77#8)
    (fun t => (t.readV 0, t.readV 1, t.readV 2, t.index)) = some (0x5C#8, 0xF0#8, 0x77#8, 0xFFF#16) := by decide
/-- M18 and M22 under the alternative `LOADSTORE_INCREMENTS_I = true`. -/
theorem test_transfer_increments : indexAfterTransfer true 0x300#16 2 = 0x303#16 ∧
    indexAfterTransfer true 0x300#16 15 = 0x310#16 := by decide
/-- Writing what reset left removes the entry. -/
theorem test_memory_canonical : (Memory.write (Memory.write [] 0x1000 0x11#8) 0x000 0xF0#8) = [] := by decide

/-! Display. -/

/-- D1, one lit pixel. -/
theorem test_cls : after ((start 0x00E0).setFb (Framebuffer.blank.toggle 5 7)) (fun t => t.fb) =
    some Framebuffer.blank := by decide
/-- W5: clipped at both edges. -/
theorem test_drw_clips : after (((start 0xD015).writeV 0 0x3E#8).writeV 1 0x1E#8)
    (fun t => (lit t.fb 30, lit t.fb 31, lit t.fb 0, t.readV 15)) = some ([62, 63], [62], [], 0#8) := by decide
/-- D8: a lit pixel goes out. -/
theorem test_drw_collides : after ((start 0xD011).setFb (Framebuffer.blank.toggle 1 0))
    (fun t => (lit t.fb 0, t.readV 15)) = some ([0, 2, 3], 1#8) := by decide

/-! Keys and timers. -/

/-- K1, K2. -/
theorem test_skp : after (((start 0xE19E).writeV 1 5#8).writeKey 5 true) (fun t => t.pc) = some 0x204#16 ∧
    after ((start 0xE19E).writeV 1 5#8) (fun t => t.pc) = some 0x202#16 := by decide
/-- K5. -/
theorem test_skp_range : after ((start 0xE19E).writeV 1 0x10#8) (fun t => (t.pc, t.run)) =
    some (0x200#16, .faulted ⟨.keyRange, 0x200#16, 0xE19E#16⟩) := by decide
/-- K4, K3. -/
theorem test_sknp : after (((start 0xE1A1).writeV 1 5#8).writeKey 4 true) (fun t => t.pc) = some 0x204#16 ∧
    after (((start 0xE1A1).writeV 1 5#8).writeKey 5 true) (fun t => t.pc) = some 0x202#16 := by decide
/-- K6. -/
theorem test_sknp_range : after ((start 0xE1A1).writeV 1 0xFF#8) (fun t => (t.pc, t.run)) =
    some (0x200#16, .faulted ⟨.keyRange, 0x200#16, 0xE1A1#16⟩) := by decide
/-- K8: the alternative policy. -/
theorem test_key_low_nibble : keyNumber .lowNibble 0x12#8 = some 2 := by decide
/-- K9. -/
theorem test_ldVxK_lowest : after (((start 0xF40A).writeKey 9 true).writeKey 3 true)
    (fun t => (t.readV 4, t.pc, t.run)) = some (3#8, 0x202#16, .running) := by decide
/-- K10. -/
theorem test_ldVxK_waits : after ((start 0xF40A).writeV 4 0x77#8) (fun t => (t.readV 4, t.pc, t.run)) =
    some (0x77#8, 0x202#16, .waitKey 4) := by decide
/-- K11. -/
theorem test_wait_completes : after ((State.reset.setRun (.waitKey 4)).writeKey 12 true)
    (fun t => (t.readV 4, t.pc, t.run)) = some (0x0C#8, 0x200#16, .running) := by decide
/-- K12. -/
theorem test_wait_not_enabled : step (State.reset.setRun (.waitKey 4)) = .fault (.waitingForKey 4) := rfl
/-- K14. -/
theorem test_ldVxDt : after ((start 0xF407).setDt 0x3C#8) (fun t => t.readV 4) = some 0x3C#8 := by decide
/-- K15. -/
theorem test_ldDtVx : after ((start 0xF515).writeV 5 0x20#8) (fun t => (t.dt, t.st)) = some (0x20#8, 0#8) := by decide
/-- K16. -/
theorem test_ldStVx : after ((start 0xF518).writeV 5 0x01#8) (fun t => (t.st, t.soundActive)) = some (1#8, true) := by decide

/-! The time base and the host. -/

/-- T1. -/
theorem test_timers_floor : (fun t : State => (t.dt, t.st, t.tRef))
    (((State.reset.setDt 3#8).setSt 200#8).advanceTimers (5/60)) = (0#8, 195#8, 5/60) := by decide +kernel
/-- T2, T3: the fraction of a tick is kept. -/
theorem test_timers_fraction : (fun t : State => (t.dt, t.tRef)) ((State.reset.setDt 10#8).advanceTimers (3/120)) =
      (9#8, 1/60) ∧
    (((State.reset.setDt 10#8).advanceTimers (3/120)).advanceTimers (2/60)).dt = 8#8 := by decide +kernel
/-- T5. -/
theorem test_timers_backwards : ((State.reset.setDt 10#8).setTRef 1).advanceTimers (1/2) =
    (State.reset.setDt 10#8).setTRef 1 := by decide +kernel
/-- T7. -/
theorem test_tick : (fun t : State => (t.dt, t.st)) (((State.reset.setDt 7#8).setSt 2#8).tick 3) = (4#8, 0#8) := by decide
/-- L2. -/
theorem test_load_program : (fun t : State => (t.mem.read 0x200, t.mem.read 0x201, t.mem.read 0x202))
    ((State.reset.setMem (State.reset.mem.write 0x202 0x77#8)).loadProgram [0xAA#8, 0xBB#8]).2 =
      (0xAA#8, 0xBB#8, 0x77#8) := by decide
/-- L5. -/
theorem test_load_capacity : State.reset.loadProgram (List.replicate 3585 0#8) = (.capacityError, State.reset) := by
  simp only [State.loadProgram, List.length_replicate]
  rfl
/-- K18, L8: refused. -/
theorem test_host_refusals : State.reset.setKeyState 16 true = (.refused, State.reset) ∧
    State.reset.setInstructionRate 0 = (.refused, State.reset) := by decide +kernel
/-- L6: only the transactions still to come outlive a reset. -/
theorem test_reset_leaves_fault : after ((State.reset.setRun (.faulted ⟨.keyRange, 0x300#16, 0xE19E#16⟩)).setSchedule
    [.reset 0 500, .coreStep]) (fun t => t == State.reset.setSchedule [.coreStep]) = some true := by decide +kernel
/-- R312. -/
theorem test_reset_memory : (State.reset.mem.read 0x04F, State.reset.mem.read 0x050, State.reset.mem.read 0x032) =
    (0x80#8, 0x00#8, 0xF0#8) := by decide
/-- K10, K11 through the schedule: the host's key press lands between two steps of the core. -/
theorem test_schedule_key : after ((State.reset.setRun (.waitKey 4)).setSchedule [.setKeyState 12 true])
    (fun t => (t.keyPressed 12, t.run, t.schedule)) = some (true, .waitKey 4, []) := by decide

/-! Witnesses: for each statement of Certificates/Slice0/Obligations.lean that has hypotheses or cases, a state and operands that
meet them, at the boundary of their range. -/

/-- The instruction runs to a next state of which `p` holds. -/
def Runs (i : Instr) (s : State) (p : State → Prop) : Prop := ∃ t, exec i s = .next t ∧ p t

/-- A step leads to a next state of which `p` holds. -/
def Steps (s : State) (p : State → Prop) : Prop := ∃ t, step s = .next t ∧ p t

/-- A faulted state whose record fits. -/
def overflowed : State :=
  (State.reset.setSp 16).setRun (.faulted ⟨.stackOverflow, 0x200#16, 0x2400#16⟩)

theorem witness_DecodeOfEncodeIsIdentity : Instr.wf (.ldVxMem 15) = true ∧ Instr.wf (.sysNnn 0xFFF#12) = true := by decide
theorem witness_EncodeOfDecodeIsIdentity : decode 0xFF65#16 = .instr (.ldVxMem 15) ∧
    decode 0x0FFF#16 = .instr (.sysNnn 0xFFF#12) := by decide
theorem witness_UnmappedWordsAreThoseListed : isUnmapped 0x5001#16 = true ∧ isUnmapped 0x0000#16 = true ∧
    isUnmapped 0x00EE#16 = false ∧ decode 0xFFFF#16 = .unmapped 0xFFFF#16 := by decide
/-- At 0x200, and across the end of memory. -/
theorem witness_StepRunsDecodedInstruction :
    (∃ s : State, s.schedule = [] ∧ s.run = .running ∧ s.pc = 0x200#16 ∧
      decode (wordOfBytes (s.mem.read s.pc.toNat) (s.mem.read (s.pc.toNat + 1))) = .instr .cls) ∧
    ∃ s : State, s.schedule = [] ∧ s.run = .running ∧ s.pc = 0xFFF#16 ∧
      decode (wordOfBytes (s.mem.read s.pc.toNat) (s.mem.read (s.pc.toNat + 1))) = .instr (.ldVxNn 0 0x2A#8) :=
  ⟨⟨start 0x00E0, rfl, rfl, rfl, by decide⟩, ⟨(State.reset.setPc 0xFFF#16).withFetchWord 16 0x602A, rfl, rfl, rfl, by decide⟩⟩
theorem witness_UnmappedWordIsNop :
    ∀ w ∈ [0x0000, 0x0FFF, 0x5001, 0x800F, 0x912F, 0xE19F, 0xF166],
      (start w).schedule = [] ∧ (start w).run = .running ∧ isUnmapped (start w).fetchWord = true := by decide
theorem witness_CoreStepsExactlyWhenEnabled :
    ((State.reset.setRun (.waitKey 4)).writeKey 15 true).CoreEnabled ∧ ¬ overflowed.CoreEnabled :=
  ⟨Or.inr ⟨4, rfl, 15, rfl⟩, fun h => h.elim (fun h => nomatch h) fun ⟨_, h, _⟩ => nomatch h⟩
theorem witness_MachineStopsOnlyWhenStuck :
    step overflowed = .fault (.stopped ⟨.stackOverflow, 0x200#16, 0x2400#16⟩) ∧
      step (State.reset.setRun (.waitKey 4)) = .fault (.waitingForKey 4) := ⟨rfl, rfl⟩
theorem witness_RandomResult : (0xFE#8).getLsbD 0 = false ∧ (0x7F#8).getLsbD 7 = false := by decide
theorem witness_CallResult :
    (State.reset.sp.val < 16 ∧ Runs (.call 0x400#12) State.reset fun t => t.stack[0] = 0x202#16) ∧
    ((State.reset.setSp 15).sp.val < 16 ∧ Runs (.call 0x400#12) (State.reset.setSp 15) fun t => t.sp = 16) ∧
    (State.reset.setSp 16).sp.val = 16 := ⟨⟨by decide, _, rfl, by decide⟩, ⟨by decide, _, rfl, by decide⟩, by decide⟩
theorem witness_ReturnResult :
    ((State.reset.setSp 16).sp.val = 15 + 1 ∧ Runs .ret (State.reset.setSp 16) fun t => t.sp = 15) ∧
    ((State.reset.setSp 1).sp.val = 0 + 1 ∧ Runs .ret (State.reset.setSp 1) fun t => t.sp = 0) ∧
    State.reset.sp.val = 0 := ⟨⟨by decide, _, rfl, by decide⟩, ⟨by decide, _, rfl, by decide⟩, by decide⟩
theorem witness_ReturnUndoesCall : ∃ s t u : State, s.sp.val = 15 ∧ exec (.call 0x400#12) s = .next t ∧
    u.stack = t.stack ∧ u.sp = t.sp ∧ u.pc ≠ t.pc :=
  ⟨State.reset.setSp 15, _, ((State.reset.setSp 16).setStack (State.reset.stack.set 15 0x202#16)), by decide, rfl,
    by decide, by decide, by decide⟩
/-- Both ends of the unmapped words of the groups 5 and 9. -/
theorem witness_SkipOnRegisterResults : decode (wordXYN 0x5 1 2 1) = .unmapped 0x5121#16 ∧
    decode (wordXYN 0x9 15 15 15) = .unmapped 0x9FFF#16 := by decide
/-- Straight on, a skip that skips, and a jump. -/
theorem witness_CounterAdvancesByWords : State.reset.run = .running ∧
    Runs .cls State.reset (fun t => t.run = .running ∧ t.pc = 0x202#16) ∧
    Runs (.seVxNn 0 0x00#8) State.reset (fun t => t.run = .running ∧ t.pc = 0x204#16) ∧
    Runs (.jp 0x345#12) State.reset (fun t => t.run = .running ∧ t.pc = 0x345#16) :=
  ⟨rfl, ⟨_, rfl, by decide⟩, ⟨_, rfl, by decide⟩, ⟨_, rfl, by decide⟩⟩
theorem witness_CountersStayEven : (State.reset.setSp 16).EvenCounters ∧
    Runs (.jpV0 0x400#12) ((State.reset.setSp 16).writeV 0 0xFE#8) (fun t => t.pc = 0x4FE#16) ∧
    ((State.reset.setSp 16).writeV 0 0xFE#8).EvenCounters ∧
    (((State.reset.setSp 16).writeV 0 0xFE#8).readV 0).toNat % 2 = 0 :=
  ⟨⟨by decide, by decide⟩, ⟨_, rfl, by decide⟩, ⟨by decide, by decide⟩, by decide⟩
theorem witness_LoadRestoresDump : ∃ s t u : State, exec (.ldMemVx 15) s = .next t ∧ (∀ a, u.mem.read a = t.mem.read a) ∧
    u.index = t.index ∧ u.readV 15 ≠ s.readV 15 :=
  ⟨State.reset.writeV 15 7#8, _, (State.reset.setMem (State.reset.mem.write 15 7#8)).setMem
      ((State.reset.writeV 15 7#8).storeAtIndex ((State.reset.writeV 15 7#8).registersUpTo 15)).mem,
    rfl, fun _ => rfl, rfl, by decide⟩
/-- The first and the last pair of registers. -/
theorem witness_StoreIsSeenByNextFetch :
    (∃ s : State, s.schedule = [] ∧ s.run = .running ∧ wrapAddr (s.index.toNat + 0) = wrapAddr (s.pc + 2#16).toNat ∧
      Runs (.ldMemVx 1) s (fun t => t.pc = s.pc + 2#16) ∧ decode (wordOfBytes (s.readV 0) (s.readV 1)) = .instr .cls) ∧
    ∃ s : State, s.schedule = [] ∧ s.run = .running ∧ wrapAddr (s.index.toNat + 14) = wrapAddr (s.pc + 2#16).toNat ∧
      Runs (.ldMemVx 15) s (fun t => t.pc = s.pc + 2#16) ∧ decode (wordOfBytes (s.readV 14) (s.readV 15)) = .instr .cls :=
  ⟨⟨(State.reset.setIndex 0x202#16).writeV 1 0xE0#8, rfl, rfl, by decide, ⟨_, rfl, rfl⟩, by decide⟩,
    ⟨(State.reset.setIndex 0x1F4#16).writeV 15 0xE0#8, rfl, rfl, by decide, ⟨_, rfl, rfl⟩, by decide⟩⟩
theorem witness_MemoriesReadingAlikeAreEqual : Memory.wf [(0x000, 0x11#8), (0xFFF, 0xAA#8)] = true := by decide
theorem witness_DrawTwiceRestoresFramebuffer : ∃ s t u : State, exec (.drw 0 1 1) s = .next t ∧ u.fb = t.fb ∧
    (∀ a, u.mem.read a = s.mem.read a) ∧ u.index = s.index ∧ u.readV 0 = s.readV 0 ∧ u.readV 1 = s.readV 1 ∧
    s.fb = Framebuffer.blank ∧ t.fb.pixel 0 0 = true :=
  ⟨State.reset, _, State.reset.setFb (State.reset.drawn 0 1 1).1, rfl, rfl, fun _ => rfl, rfl, rfl, rfl, rfl, by decide⟩
/-- The values 0, 15 and 16. -/
theorem witness_KeySkipResults : (State.reset.readV 1).toNat = (0 : Key).val ∧
    ((State.reset.writeV 1 15#8).readV 1).toNat = (15 : Key).val ∧
    15 < ((State.reset.writeV 1 16#8).readV 1).toNat := by decide
theorem witness_KeyLoadOrWait : (∃ k, (State.reset.writeKey 15 true).keyPressed k = true) ∧
    ∀ k, State.reset.keyPressed k = false := by decide
theorem witness_KeyWaitCompletes :
    (∃ s : State, s.schedule = [] ∧ s.run = .waitKey 15 ∧ ∃ k, s.keyPressed k = true) ∧
    ∃ s : State, s.schedule = [] ∧ s.run = .waitKey 15 ∧ ∀ k, s.keyPressed k = false :=
  ⟨⟨(State.reset.setRun (.waitKey 15)).writeKey 0 true, rfl, rfl, 0, rfl⟩,
    ⟨State.reset.setRun (.waitKey 15), rfl, rfl, by decide⟩⟩
/-- One tick to the dot, less than one, and time that goes backwards. -/
theorem witness_TimersDecayByWholeTicks : ⌊((1 / 60 : Rat) - State.reset.tRef) * 60⌋ = ((1 : Nat) : Int) ∧
    ⌊((1 / 61 : Rat) - State.reset.tRef) * 60⌋ < 1 ∧ ⌊((-1 : Rat) - State.reset.tRef) * 60⌋ < 1 := by decide +kernel
theorem witness_TimersNeverIncreaseUnlessSet :
    Steps ((start 0xF515).writeV 5 9#8) (fun t => t.dt = 9#8 ∧ t.st = 0#8) ∧
    Steps ((start 0xF518).writeV 5 9#8) (fun t => t.dt = 0#8 ∧ t.st = 9#8) :=
  ⟨⟨_, rfl, by decide⟩, ⟨_, rfl, by decide⟩⟩
/-- Each cause is raised, and the step takes it. -/
theorem witness_FaultIsPreciseAndNamesItsWord :
    ((start 0x2400).schedule = [] ∧ (start 0x2400).run = .running) ∧
    ((start 0x2400).setSp 16).Raises .stackOverflow ∧ (start 0x00EE).Raises .stackUnderflow ∧
    ((start 0xE19E).writeV 1 16#8).Raises .keyRange ∧ ((start 0xE1A1).writeV 1 16#8).Raises .keyRange ∧
    Steps ((start 0x2400).setSp 16) (fun t => t.run = .faulted ⟨.stackOverflow, 0x200#16, 0x2400#16⟩) ∧
    Steps (start 0x00EE) (fun t => t.run = .faulted ⟨.stackUnderflow, 0x200#16, 0x00EE#16⟩) ∧
    Steps ((start 0xE19E).writeV 1 16#8) (fun t => t.run = .faulted ⟨.keyRange, 0x200#16, 0xE19E#16⟩) ∧
    Steps ((start 0xE1A1).writeV 1 16#8) (fun t => t.run = .faulted ⟨.keyRange, 0x200#16, 0xE1A1#16⟩) :=
  ⟨⟨rfl, rfl⟩, ⟨by decide, 0x400#12, by decide⟩, ⟨by decide, by decide⟩, ⟨1, Or.inl (by decide), by decide⟩,
    ⟨1, Or.inr (by decide), by decide⟩, ⟨_, rfl, by decide⟩, ⟨_, rfl, by decide⟩, ⟨_, rfl, by decide⟩, ⟨_, rfl, by decide⟩⟩
theorem witness_FaultedStepChangesNothing :
    overflowed.run = .faulted ⟨.stackOverflow, 0x200#16, 0x2400#16⟩ ∧ overflowed.schedule = [] := by decide
/-- A RESET that leaves FAULTED, one that ends a wait, and a wait that completes. -/
theorem witness_OnlyResetLeavesFaultedOrAbandonsWait :
    Steps (overflowed.setSchedule [.reset 0 500]) (fun t => t.run = .running) ∧
    Steps ((State.reset.setRun (.waitKey 4)).setSchedule [.reset 0 500]) (fun t => t.run = .running) ∧
    Steps ((State.reset.setRun (.waitKey 4)).writeKey 0 true) (fun t => t.run = .running) :=
  ⟨⟨_, rfl, by decide +kernel⟩, ⟨_, rfl, by decide +kernel⟩, ⟨_, rfl, by decide⟩⟩
theorem witness_EveryStepKeepsRecordFitting : (overflowed.setSchedule [.inspect]).RecordFits ∧
    Steps (overflowed.setSchedule [.inspect]) (fun t => t = overflowed) := by
  refine ⟨fun record h => ?_, _, rfl, rfl⟩
  cases h
  exact ⟨rfl, rfl, 0x400#12, by decide⟩
theorem witness_EveryStepKeepsInvariant :
    State.reset.Inv ∧ Steps State.reset (fun t => t.pc = 0x202#16) :=
  ⟨⟨by decide, by decide, by decide +kernel, by decide +kernel⟩, ⟨_, rfl, by decide⟩⟩
/-- Each part is written by an instruction that may write it. -/
theorem witness_InstructionsWriteOnlyTheirState :
    Runs (.ldBVx 0) (State.reset.setIndex 0xFFF#16) (fun t => t.mem ≠ State.reset.mem) ∧
    Runs (.drw 0 1 1) State.reset (fun t => t.fb ≠ State.reset.fb) ∧
    Runs (.call 0x400#12) State.reset (fun t => t.stack ≠ State.reset.stack) ∧
    Runs (.ldINnn 1#12) State.reset (fun t => t.index ≠ State.reset.index) ∧
    Runs (.ldDtVx 1) (State.reset.writeV 1 1#8) (fun t => t.dt ≠ State.reset.dt) ∧
    Runs (.ldStVx 1) (State.reset.writeV 1 1#8) (fun t => t.st ≠ State.reset.st) ∧
    Runs (.sysNnn 1#12) State.reset (fun t => t.diag ≠ State.reset.diag) ∧
    Runs (.ldVxMem 15) State.reset (fun t => t.readV 15 ≠ State.reset.readV 15) ∧
    Runs (.ldVxK 15) State.reset (fun t => t.run = .waitKey 15) ∧
    Runs .ret State.reset (fun t => t.run = .faulted ⟨.stackUnderflow, 0x200#16, 0x00EE#16⟩) ∧
    Runs (.rndVxNn 0 0#8) State.reset (fun t => t.draws ≠ State.reset.draws) :=
  ⟨⟨_, rfl, by decide⟩, ⟨_, rfl, by decide⟩, ⟨_, rfl, by decide⟩, ⟨_, rfl, by decide⟩, ⟨_, rfl, by decide⟩,
    ⟨_, rfl, by decide⟩, ⟨_, rfl, by decide⟩, ⟨_, rfl, by decide⟩, ⟨_, rfl, by decide⟩, ⟨_, rfl, by decide⟩,
    ⟨_, rfl, fun h => nomatch h⟩⟩
theorem witness_ProgramCannotObserveHostState : AgreeOnWhatIsRead State.reset (State.reset.setSt 5#8) ∧
    State.reset ≠ State.reset.setSt 5#8 ∧ Runs .cls State.reset (fun t => t.pc = 0x202#16) := by
  refine ⟨fun p hp => ?_, by decide, _, rfl, by decide⟩
  cases p <;> simp_all [Part.Same, State.setSt, State.readV]
theorem witness_DeadStackEntriesUnobservable :
    AgreeBelowSp (State.reset.setSp 1) ((State.reset.setSp 1).setStack (State.reset.stack.set 1 9#16)) ∧
    Runs .ret (State.reset.setSp 1) (fun t => t.sp = 0) := by
  refine ⟨⟨fun p hp => ?_, by decide⟩, _, rfl, by decide⟩
  cases p <;> simp_all [Part.Same, State.setSp, State.setStack, State.readV]
theorem witness_EndOfRunStays : (start 0x1200).schedule = [] ∧ (start 0x1200).AtEnd :=
  ⟨rfl, rfl, 0x200#12, by decide, by decide⟩
theorem witness_ResetHasInvariants : (0 : Rat) ≤ 0 ∧ (0 : Rat) < 1 / 1000 := by decide +kernel
theorem witness_ResetFromAnyState : (0 : Rat) ≤ 0 ∧ (0 : Rat) < 1 / 1000 := by decide +kernel
theorem witness_LoadProgramIsAllOrNothing : (List.replicate 3584 0#8).length ≤ 3584 ∧
    3584 < (List.replicate 3585 0#8).length := by simp only [List.length_replicate]; decide
theorem witness_SetKeyStateResult : (0 ≤ (0 : Int) ∧ (0 : Int) ≤ 15) ∧ (0 ≤ (15 : Int) ∧ (15 : Int) ≤ 15) ∧
    ¬ (0 ≤ (-1 : Int) ∧ (-1 : Int) ≤ 15) ∧ ¬ (0 ≤ (16 : Int) ∧ (16 : Int) ≤ 15) := by decide
theorem witness_SetInstructionRateResult : (0 : Rat) < 1 / 1000 ∧ (0 : Rat) ≤ 0 ∧ (-1 : Rat) ≤ 0 := by decide +kernel
/-- Two states that differ above SP only, and the shown stack at a full and an empty one. -/
theorem witness_InspectionShowsOnlyLiveStack :
    (State.reset.setSp 16).inspection.liveStack.length = 16 ∧ State.reset.inspection.liveStack = [] ∧
    AgreeBelowSp State.reset (State.reset.setStack (State.reset.stack.set 0 9#16)) ∧
    (State.reset.setStack (State.reset.stack.set 0 9#16)).mem = State.reset.mem := by
  refine ⟨by decide, by decide, ⟨fun p hp => ?_, by decide⟩, rfl⟩
  cases p <;> simp_all [Part.Same, State.setStack, State.readV]

end Sys2Proof.Machine.Tests
end

section
/-! The invariant `State.Inv` (10_state.md R34, R42, R49; 20_memory.md R80): reset establishes it, and every instruction, every
transaction and every step keeps it. -/

namespace Sys2Proof.Machine

theorem State.resetWith_inv {t0 rate : Rat} (ht : 0 ≤ t0) (hr : 0 < rate) : (State.resetWith t0 rate).Inv :=
  ⟨by simp [State.resetWith], Memory.wf_nil, ht, hr⟩

/-- A core that has not stopped on a fault has no record to fit. -/
theorem State.recordFits_of_running {s : State} (h : s.run = .running) : s.RecordFits := fun record hf => by
  simp [h] at hf

/-- Settles O49: reset clears `I` and memory, takes `T0` and `R` as they are, and runs. -/
theorem resetHasInvariants : Obligations.ResetHasInvariants :=
  ⟨fun _ _ ht hr => ⟨State.resetWith_inv ht hr, State.recordFits_of_running rfl⟩,
    State.resetWith_inv (by simp) (by simp), State.recordFits_of_running rfl⟩

variable {s t : State}

/-- The invariant sees four parts of the state only. -/
theorem State.Inv.congr (h : s.Inv) (hi : t.index = s.index) (hm : t.mem = s.mem) (ht : t.tRef = s.tRef)
    (hr : t.rate = s.rate) : t.Inv :=
  ⟨hi ▸ h.index_le, hm ▸ h.mem_wf, ht ▸ h.tRef_nonneg, hr ▸ h.rate_pos⟩

theorem State.Inv.skipIf (h : s.Inv) (c : Bool) : (s.skipIf c).Inv := h.congr (by simp) (by simp) (by simp) (by simp)

theorem State.Inv.setIndex (h : s.Inv) {w : Word} (hw : w.toNat ≤ 0x0FFF) : (s.setIndex w).Inv :=
  ⟨hw, h.mem_wf, h.tRef_nonneg, h.rate_pos⟩

theorem State.Inv.storeBytes (h : s.Inv) (a : Nat) (bs : List Byte) : (s.setMem (s.mem.storeBytes a bs)).Inv :=
  ⟨h.index_le, Memory.wf_storeBytes h.mem_wf a bs, h.tRef_nonneg, h.rate_pos⟩

theorem State.Inv.setV (h : s.Inv) (v : Vector Byte 16) : (s.setV v).Inv := h.congr rfl rfl rfl rfl

theorem State.Inv.setFb (h : s.Inv) (f : Framebuffer) : (s.setFb f).Inv := h.congr rfl rfl rfl rfl

theorem State.Inv.advance (h : s.Inv) : s.advance.Inv := h.congr rfl rfl rfl rfl

/-- Every instruction keeps the invariant: `I` is written by LD I, ADD I and LD F, memory by LD B and LD [I], and no instruction
writes `t_ref` or the rate. -/
theorem exec_keeps_inv {i : Instr} (hs : s.Inv) (h : exec i s = .next t) : t.Inv := by
  cases i
  case ret => obtain ⟨_, _, _, rfl⟩ | ⟨_, rfl⟩ := execRet_cases h <;> exact hs.congr rfl rfl rfl rfl
  case call nnn => obtain ⟨_, rfl⟩ | ⟨_, rfl⟩ := execCall_cases h <;> exact hs.congr rfl rfl rfl rfl
  case skp x =>
    obtain ⟨_, _, rfl⟩ | ⟨_, rfl⟩ := execSkp_cases h
    · exact hs.advance.skipIf _
    · exact hs.congr rfl rfl rfl rfl
  case sknp x =>
    obtain ⟨_, _, rfl⟩ | ⟨_, rfl⟩ := execSknp_cases h
    · exact hs.advance.skipIf _
    · exact hs.congr rfl rfl rfl rfl
  case ldVxK x => obtain ⟨_, _, rfl⟩ | ⟨_, rfl⟩ := execLdVxK_cases h <;> exact hs.congr rfl rfl rfl rfl
  all_goals obtain rfl := Host.Outcome.next.inj h
  case drw x y n => exact (hs.advance.setFb _).setV _
  case ldVxMem x => exact (hs.advance.setV _).setIndex hs.index_le
  case seVxNn x nn => exact hs.advance.skipIf _
  case sneVxNn x nn => exact hs.advance.skipIf _
  case seVxVy x y => exact hs.advance.skipIf _
  case sneVxVy x y => exact hs.advance.skipIf _
  case ldINnn nnn => exact hs.advance.setIndex (by rw [toNat_zext_addr]; omega)
  case addIVx x => exact (hs.advance.setIndex (addIndexResult_le _ _)).congr rfl rfl rfl rfl
  case ldFVx x => exact hs.advance.setIndex (by rw [toNat_glyphAddress]; omega)
  case ldBVx x => exact hs.advance.storeBytes _ _
  case ldMemVx x => exact (hs.advance.storeBytes _ _).congr rfl rfl rfl rfl
  all_goals exact hs.congr rfl rfl rfl rfl

/-- The core's step keeps the invariant: an instruction, an unmapped word, or the completion of a key wait. -/
theorem coreStep_keeps_inv (hs : s.Inv) (h : s.coreStep = .next t) : t.Inv := by
  obtain ⟨_, h⟩ | ⟨x, k, _, _, rfl⟩ := State.coreStep_cases h
  · obtain ⟨i, _, h⟩ | ⟨op, _, rfl⟩ := State.runInstruction_cases h
    · exact exec_keeps_inv hs h
    · exact hs.congr rfl rfl rfl rfl
  · exact hs.congr rfl rfl rfl rfl

/-- Every change a transaction can make keeps the invariant; a refused RESET or rate makes none (log entry 7). -/
theorem Change.keeps_inv (hs : s.Inv) (h : Change s t) : t.Inv := by
  cases h with
  | same => exact hs
  | core h => exact coreStep_keeps_inv hs h
  | timers now =>
    obtain e | ⟨k, r, e, hr⟩ := State.advanceTimers_cases s now <;> rw [e]
    · exact hs
    · exact ⟨hs.index_le, hs.mem_wf, add_nonneg hs.tRef_nonneg hr, hs.rate_pos⟩
  | load bytes _ => exact hs.storeBytes _ _
  | key k pressed => exact hs.congr rfl rfl rfl rfl
  | rate hz hpos => exact ⟨hs.index_le, hs.mem_wf, hs.tRef_nonneg, hpos⟩
  | stamp now => exact hs.congr rfl rfl rfl rfl
  | reset t0 hz ht hr => exact (State.resetWith_inv ht hr).congr rfl rfl rfl rfl

/-- Settles O48: a step is the core's step or a scheduled transaction, and each keeps the invariant. -/
theorem everyStepKeepsInvariant : Obligations.EveryStepKeepsInvariant := fun s t hs h => by
  obtain ⟨_, h⟩ | ⟨tx, rest, _, rfl⟩ := step_cases h
  · exact coreStep_keeps_inv hs h
  · have hrest : (s.setSchedule rest).Inv := hs.congr rfl rfl rfl rfl
    exact (State.transact_cases _ tx).1.keeps_inv hrest

end Sys2Proof.Machine
end

section
/-! No instruction reads the host's state or a dead stack entry (10_state.md R38, R41, R42, R48, R49): two states that agree on
what is read are left agreeing on it by every instruction. One relation, `AgreeBut`, serves both statements. -/

namespace Sys2Proof.Machine

open Host (Outcome)

/-- The parts no instruction reads; of the stack, the entries at and above `SP`. -/
def unreadParts : List Part := [.stack, .st, .tRef, .diag, .rate, .tLast, .schedule]

/-- Two states agree on every part but those of `hidden`, which no instruction reads, and on the stack entries in use. -/
structure AgreeBut (hidden : List Part) (s s' : State) : Prop where
  unread : hidden ⊆ unreadParts
  frame : FrameExcept hidden s s'
  live : ∀ k (hk : k < 16), k < s.sp.val → s'.stack[k] = s.stack[k]

/-- `AgreeBelowSp` is `AgreeBut` with the stack hidden. -/
theorem agreeBelowSp_iff {s s' : State} : AgreeBelowSp s s' ↔ AgreeBut [.stack] s s' :=
  ⟨fun h => ⟨by decide, h.1, h.2⟩, fun h => ⟨h.frame, h.live⟩⟩

/-- `AgreeOnWhatIsRead` is `AgreeBut` with the rest of the unread parts hidden; the stack agrees as a whole. -/
theorem agreeOnWhatIsRead_iff {s s' : State} :
    AgreeOnWhatIsRead s s' ↔ AgreeBut [.st, .tRef, .diag, .rate, .tLast, .schedule] s s' := by
  refine ⟨fun h => ⟨by decide, h, fun k hk _ => ?_⟩, fun h => h.frame⟩
  have hstack : s'.stack = s.stack := h .stack (by decide)
  rw [hstack]

/-- If the one outcome is a next state, then so is the other, and the two states are related. -/
def NextRelated (R : State → State → Prop) (o o' : Outcome State Fault Refusal) : Prop :=
  ∀ t, o = .next t → ∃ t', o' = .next t' ∧ R t t'

theorem NextRelated.of_next {R : State → State → Prop} {t t' : State} (h : R t t') :
    NextRelated R (.next t) (.next t') := by
  intro u hu
  obtain rfl := Outcome.next.inj hu
  exact ⟨t', rfl, h⟩

namespace AgreeBut

variable {hidden : List Part} {s s' : State}

/-! What an instruction reads is the same in both states. -/

theorem same (h : AgreeBut hidden s s') {p : Part} (hp : p ∉ unreadParts) : p.Same s s' :=
  h.frame p fun hm => hp (h.unread hm)

theorem readV (h : AgreeBut hidden s s') (r : Reg) : s'.readV r = s.readV r :=
  h.same (p := .v) (by decide) r

theorem index (h : AgreeBut hidden s s') : s'.index = s.index := h.same (p := .index) (by decide)

theorem pc (h : AgreeBut hidden s s') : s'.pc = s.pc := h.same (p := .pc) (by decide)

theorem sp (h : AgreeBut hidden s s') : s'.sp = s.sp := h.same (p := .sp) (by decide)

theorem dt (h : AgreeBut hidden s s') : s'.dt = s.dt := h.same (p := .dt) (by decide)

theorem fb (h : AgreeBut hidden s s') : s'.fb = s.fb := h.same (p := .fb) (by decide)

theorem draws (h : AgreeBut hidden s s') : s'.draws = s.draws := h.same (p := .draws) (by decide)

theorem read (h : AgreeBut hidden s s') (a : Nat) : s'.mem.read a = s.mem.read a :=
  h.same (p := .mem) (by decide) a

theorem keyPressed (h : AgreeBut hidden s s') (k : Key) : s'.keyPressed k = s.keyPressed k := by
  have hkeys : s'.keys = s.keys := h.same (p := .keys) (by decide)
  simp only [State.keyPressed, hkeys]

theorem selectKey (h : AgreeBut hidden s s') : s'.selectKey = s.selectKey := by
  simp only [State.selectKey, h.keyPressed]

theorem registersUpTo (h : AgreeBut hidden s s') (x : Reg) : s'.registersUpTo x = s.registersUpTo x := by
  have hv : s'.v = s.v := Vector.ext fun i hi => h.readV ⟨i, hi⟩
  simp only [State.registersUpTo, hv]

theorem drawn (h : AgreeBut hidden s s') (x y : Reg) (n : Fin 16) : s'.drawn x y n = s.drawn x y n := by
  simp only [State.drawn, drawRows, h.read, h.index, h.readV, h.fb]

/-! Every operation that writes the same to both states leaves them agreeing. -/

theorem setV (h : AgreeBut hidden s s') {v v' : Vector Byte 16} (hv : ∀ r, (s'.setV v').readV r = (s.setV v).readV r) :
    AgreeBut hidden (s.setV v) (s'.setV v') := by
  refine ⟨h.unread, fun p hp => ?_, h.live⟩
  cases p with
  | v => exact hv
  | _ => exact h.frame _ hp

theorem writeV (h : AgreeBut hidden s s') (x : Reg) {b b' : Byte} (hb : b' = b) :
    AgreeBut hidden (s.writeV x b) (s'.writeV x b') := by
  have hread : ∀ r, (s'.writeV x b').readV r = (s.writeV x b).readV r := fun r => by
    simp only [State.readV_writeV, h.readV, hb]
  exact h.setV hread

theorem writeResultFlag (h : AgreeBut hidden s s') (x : Reg) {b b' c c' : Byte} (hb : b' = b) (hc : c' = c) :
    AgreeBut hidden (s.writeResultFlag x b c) (s'.writeResultFlag x b' c') :=
  (h.writeV x hb).writeV regF hc

theorem loadRegisters (h : AgreeBut hidden s s') (x : Reg) {w w' : Word} (hw : w' = w) :
    AgreeBut hidden (s.loadRegisters w x) (s'.loadRegisters w' x) := by
  have hread : ∀ r, (s'.loadRegisters w' x).readV r = (s.loadRegisters w x).readV r := fun r => by
    simp only [State.readV_loadRegisters, h.readV, h.read, hw]
  exact h.setV hread

theorem setIndex (h : AgreeBut hidden s s') {w w' : Word} (hw : w' = w) :
    AgreeBut hidden (s.setIndex w) (s'.setIndex w') := by
  refine ⟨h.unread, fun p hp => ?_, h.live⟩
  cases p with
  | index => exact hw
  | _ => exact h.frame _ hp

theorem setPc (h : AgreeBut hidden s s') {w w' : Word} (hw : w' = w) :
    AgreeBut hidden (s.setPc w) (s'.setPc w') := by
  refine ⟨h.unread, fun p hp => ?_, h.live⟩
  cases p with
  | pc => exact hw
  | _ => exact h.frame _ hp

theorem setDt (h : AgreeBut hidden s s') {b b' : Byte} (hb : b' = b) : AgreeBut hidden (s.setDt b) (s'.setDt b') := by
  refine ⟨h.unread, fun p hp => ?_, h.live⟩
  cases p with
  | dt => exact hb
  | _ => exact h.frame _ hp

theorem setSt (h : AgreeBut hidden s s') {b b' : Byte} (hb : b' = b) : AgreeBut hidden (s.setSt b) (s'.setSt b') := by
  refine ⟨h.unread, fun p hp => ?_, h.live⟩
  cases p with
  | st => exact hb
  | _ => exact h.frame _ hp

theorem setFb (h : AgreeBut hidden s s') {f f' : Framebuffer} (hf : f' = f) :
    AgreeBut hidden (s.setFb f) (s'.setFb f') := by
  refine ⟨h.unread, fun p hp => ?_, h.live⟩
  cases p with
  | fb => exact hf
  | _ => exact h.frame _ hp

theorem setRun (h : AgreeBut hidden s s') {r r' : RunState} (hr : r' = r) :
    AgreeBut hidden (s.setRun r) (s'.setRun r') := by
  refine ⟨h.unread, fun p hp => ?_, h.live⟩
  cases p with
  | run => exact hr
  | _ => exact h.frame _ hp

theorem setDraws (h : AgreeBut hidden s s') {n n' : Nat} (hn : n' = n) :
    AgreeBut hidden (s.setDraws n) (s'.setDraws n') := by
  refine ⟨h.unread, fun p hp => ?_, h.live⟩
  cases p with
  | draws => exact hn
  | _ => exact h.frame _ hp

/-- Stores leave memories that read alike, although they may be held otherwise. -/
theorem storeAtIndex (h : AgreeBut hidden s s') {bs bs' : List Byte} (hbs : bs' = bs) :
    AgreeBut hidden (s.storeAtIndex bs) (s'.storeAtIndex bs') := by
  refine ⟨h.unread, fun p hp => ?_, h.live⟩
  cases p with
  | mem =>
    intro a
    simp only [State.storeAtIndex_mem, h.index, hbs]
    exact Memory.read_storeBytes_congr h.read bs _ a
  | _ => exact h.frame _ hp

theorem advance (h : AgreeBut hidden s s') : AgreeBut hidden s.advance s'.advance := h.setPc (by rw [h.pc])

theorem skipIf (h : AgreeBut hidden s s') {c c' : Bool} (hc : c' = c) :
    AgreeBut hidden (s.skipIf c) (s'.skipIf c') := by
  subst hc
  cases c' with
  | false => exact h
  | true => exact h.advance

theorem raise (h : AgreeBut hidden s s') (cause : FaultCause) (op : Word) :
    AgreeBut hidden (s.raise cause op) (s'.raise cause op) :=
  h.setRun (by rw [h.pc])

/-- The diagnostic names `pc`; the log it is appended to may be hidden. -/
theorem unmappedNop (h : AgreeBut hidden s s') (op : Word) :
    AgreeBut hidden (s.unmappedNop op) (s'.unmappedNop op) := by
  refine ⟨h.unread, fun p hp => ?_, h.live⟩
  cases p with
  | pc => exact h.advance.pc
  | diag =>
    have hdiag : s'.diag = s.diag := h.frame .diag hp
    simp only [Part.Same, State.unmappedNop_diag, hdiag, h.pc]
  | _ => exact h.frame _ hp

/-- A pop brings no entry into use. -/
theorem setSp_of_le (h : AgreeBut hidden s s') {n n' : Fin 17} (hn : n' = n) (hle : n.val ≤ s.sp.val) :
    AgreeBut hidden (s.setSp n) (s'.setSp n') := by
  refine ⟨h.unread, fun p hp => ?_, fun k hk hlt => h.live k hk (Nat.lt_of_lt_of_le hlt hle)⟩
  cases p with
  | sp => exact hn
  | _ => exact h.frame _ hp

/-- A push brings one entry into use, the value pushed. -/
theorem pushed (h : AgreeBut hidden s s') {w w' : Word} (hw : w' = w) (hlt : s.sp.val < 16) (hlt' : s'.sp.val < 16) :
    AgreeBut hidden ((s.setStack (s.stack.set s.sp.val w)).setSp ⟨s.sp.val + 1, Nat.succ_lt_succ hlt⟩)
      ((s'.setStack (s'.stack.set s'.sp.val w')).setSp ⟨s'.sp.val + 1, Nat.succ_lt_succ hlt'⟩) := by
  subst hw
  refine ⟨h.unread, fun p hp => ?_, fun k hk hk1 => ?_⟩
  · cases p with
    | stack =>
      have hstack : s'.stack = s.stack := h.frame .stack hp
      simp only [Part.Same, State.setSp_stack, State.setStack_stack, hstack, h.sp]
    | sp => simp only [Part.Same, State.setSp_sp, h.sp]
    | _ => exact h.frame _ hp
  · have hk1 : k < s.sp.val + 1 := hk1
    simp only [State.setSp_stack, State.setStack_stack, Vector.getElem_set, h.sp]
    split
    · rfl
    · exact h.live k hk (by omega)

/-! The branching meanings: both states take the same branch. -/

theorem execRet_related (h : AgreeBut hidden s s') : NextRelated (AgreeBut hidden) (execRet s) (execRet s') := by
  have hsp := h.sp
  by_cases h0 : s.sp.val = 0
  · rw [execRet_of_empty h0, execRet_of_empty (hsp ▸ h0)]
    exact .of_next (h.raise _ _)
  · rw [execRet_of_pos (Nat.pos_of_ne_zero h0), execRet_of_pos (hsp ▸ Nat.pos_of_ne_zero h0)]
    refine .of_next ((h.advance.setSp_of_le ?_ ?_).setPc ?_)
    · simp only [hsp]
    · exact Nat.sub_le _ _
    · simp only [hsp]
      exact h.live _ _ (by omega)

theorem execCall_related (h : AgreeBut hidden s s') (nnn : Addr) :
    NextRelated (AgreeBut hidden) (execCall nnn s) (execCall nnn s') := by
  have hsp := h.sp
  by_cases hlt : s.sp.val < 16
  · rw [execCall_of_lt nnn hlt, execCall_of_lt nnn (hsp ▸ hlt)]
    exact .of_next ((h.advance.pushed (by rw [h.pc]) hlt _).setPc rfl)
  · have hfull : s.sp.val = 16 := by omega
    rw [execCall_of_full nnn hfull, execCall_of_full nnn (hsp ▸ hfull)]
    exact .of_next (h.raise _ _)

theorem execSkp_related (h : AgreeBut hidden s s') (x : Reg) :
    NextRelated (AgreeBut hidden) (execSkp x s) (execSkp x s') := by
  by_cases hx : (s.readV x).toNat < 16
  · rw [execSkp_of_le ⟨_, hx⟩ rfl, execSkp_of_le ⟨_, hx⟩ (by rw [h.readV])]
    exact .of_next (h.advance.skipIf (h.keyPressed _))
  · rw [execSkp_of_gt (by omega), execSkp_of_gt (by rw [h.readV]; omega)]
    exact .of_next (h.raise _ _)

theorem execSknp_related (h : AgreeBut hidden s s') (x : Reg) :
    NextRelated (AgreeBut hidden) (execSknp x s) (execSknp x s') := by
  by_cases hx : (s.readV x).toNat < 16
  · rw [execSknp_of_le ⟨_, hx⟩ rfl, execSknp_of_le ⟨_, hx⟩ (by rw [h.readV])]
    exact .of_next (h.advance.skipIf (by rw [h.keyPressed]))
  · rw [execSknp_of_gt (by omega), execSknp_of_gt (by rw [h.readV]; omega)]
    exact .of_next (h.raise _ _)

theorem execLdVxK_related (h : AgreeBut hidden s s') (x : Reg) :
    NextRelated (AgreeBut hidden) (execLdVxK x s) (execLdVxK x s') := by
  cases hk : s.selectKey with
  | some k =>
    rw [execLdVxK_of_some x hk, execLdVxK_of_some x (h.selectKey.trans hk)]
    exact .of_next (h.advance.writeV x rfl)
  | none =>
    rw [execLdVxK_of_none x hk, execLdVxK_of_none x (h.selectKey.trans hk)]
    exact .of_next (h.advance.setRun rfl)

/-- Every instruction leads from agreeing states to agreeing states: what it writes it computes from what it reads. -/
theorem exec_related (h : AgreeBut hidden s s') (i : Instr) : NextRelated (AgreeBut hidden) (exec i s) (exec i s') := by
  cases i with
  | cls => exact .of_next (h.advance.setFb rfl)
  | ret => exact h.execRet_related
  | jp nnn => exact .of_next (h.advance.setPc rfl)
  | call nnn => exact h.execCall_related nnn
  | seVxNn x nn => exact .of_next (h.advance.skipIf (by simp only [h.readV]))
  | sneVxNn x nn => exact .of_next (h.advance.skipIf (by simp only [h.readV]))
  | seVxVy x y => exact .of_next (h.advance.skipIf (by simp only [h.readV]))
  | sneVxVy x y => exact .of_next (h.advance.skipIf (by simp only [h.readV]))
  | ldVxNn x nn => exact .of_next (h.advance.writeV x rfl)
  | addVxNn x nn => exact .of_next (h.advance.writeV x (by simp only [h.readV]))
  | ldVxVy x y => exact .of_next (h.advance.writeV x (h.readV y))
  | orVxVy x y => exact .of_next (h.advance.writeV x (by simp only [h.readV]))
  | andVxVy x y => exact .of_next (h.advance.writeV x (by simp only [h.readV]))
  | xorVxVy x y => exact .of_next (h.advance.writeV x (by simp only [h.readV]))
  | addVxVy x y => exact .of_next (h.advance.writeResultFlag x (by simp only [h.readV]) (by simp only [h.readV]))
  | subVxVy x y => exact .of_next (h.advance.writeResultFlag x (by simp only [h.readV]) (by simp only [h.readV]))
  | shrVx x y => exact .of_next (h.advance.writeResultFlag x (by simp only [h.readV]) (by simp only [h.readV]))
  | subnVxVy x y => exact .of_next (h.advance.writeResultFlag x (by simp only [h.readV]) (by simp only [h.readV]))
  | shlVx x y => exact .of_next (h.advance.writeResultFlag x (by simp only [h.readV]) (by simp only [h.readV]))
  | ldINnn nnn => exact .of_next (h.advance.setIndex rfl)
  | jpV0 nnn => exact .of_next (h.advance.setPc (by simp only [h.readV]))
  | rndVxNn x nn =>
    have hbyte : randomResult s'.advance.randomByte.1 nn = randomResult s.advance.randomByte.1 nn := by
      simp only [State.randomByte, State.advance_draws, h.draws]
    have hdrawn : AgreeBut hidden s.advance.randomByte.2 s'.advance.randomByte.2 :=
      h.advance.setDraws (by rw [h.advance.draws])
    exact .of_next (hdrawn.writeV x hbyte)
  | drw x y n =>
    exact .of_next ((h.advance.setFb (by rw [h.drawn])).writeV regF (by rw [h.drawn]))
  | skp x => exact h.execSkp_related x
  | sknp x => exact h.execSknp_related x
  | ldVxDt x => exact .of_next (h.advance.writeV x h.dt)
  | ldVxK x => exact h.execLdVxK_related x
  | ldDtVx x => exact .of_next (h.advance.setDt (h.readV x))
  | ldStVx x => exact .of_next (h.advance.setSt (h.readV x))
  | addIVx x =>
    exact .of_next ((h.advance.setIndex (by rw [h.readV, h.index])).writeV regF (by rw [h.readV, h.index]))
  | ldFVx x => exact .of_next (h.advance.setIndex (by rw [h.readV]))
  | ldBVx x => exact .of_next (h.advance.storeAtIndex (by rw [h.readV]))
  | ldMemVx x => exact .of_next ((h.advance.storeAtIndex (h.registersUpTo x)).setIndex (by rw [h.index]))
  | ldVxMem x => exact .of_next ((h.advance.loadRegisters x h.index).setIndex (by rw [h.index]))
  | sysNnn nnn => exact .of_next (h.unmappedNop _)

end AgreeBut

/-- Settles O51: every instruction keeps agreement on all but what it does not read. -/
theorem programCannotObserveHostState : Obligations.ProgramCannotObserveHostState := fun i _ _ t h ht => by
  obtain ⟨t', ht', hagree⟩ := (agreeOnWhatIsRead_iff.1 h).exec_related i t ht
  exact ⟨t', ht', agreeOnWhatIsRead_iff.2 hagree⟩

/-- Settles O52: every instruction keeps agreement on all but the stack above `SP`. -/
theorem deadStackEntriesUnobservable : Obligations.DeadStackEntriesUnobservable := fun i _ _ t h ht => by
  obtain ⟨t', ht', hagree⟩ := (agreeBelowSp_iff.1 h).exec_related i t ht
  exact ⟨t', ht', agreeBelowSp_iff.2 hagree⟩

end Sys2Proof.Machine
end

section
/-! `pc` and the stack entries in use stay even (10_state.md R37). -/

namespace Sys2Proof.Machine

variable {s t : State}

theorem toNat_add_two_even {w : Word} (h : w.toNat % 2 = 0) : (w + 2#16).toNat % 2 = 0 := by
  rw [BitVec.toNat_add, BitVec.toNat_ofNat]
  omega

namespace State.EvenCounters

theorem setPc (h : s.EvenCounters) {w : Word} (hw : w.toNat % 2 = 0) : (s.setPc w).EvenCounters := ⟨hw, h.2⟩

theorem setV (h : s.EvenCounters) (v : Vector Byte 16) : (s.setV v).EvenCounters := h

theorem setFb (h : s.EvenCounters) (f : Framebuffer) : (s.setFb f).EvenCounters := h

theorem advance (h : s.EvenCounters) : s.advance.EvenCounters := h.setPc (toNat_add_two_even h.1)

theorem skipIf (h : s.EvenCounters) (c : Bool) : (s.skipIf c).EvenCounters := by
  cases c with
  | false => exact h
  | true => exact h.advance

/-- A pop takes no entry into use. -/
theorem setSp_of_le (h : s.EvenCounters) {n : Fin 17} (hle : n.val ≤ s.sp.val) : (s.setSp n).EvenCounters :=
  ⟨h.1, fun k hk hlt => h.2 k hk (Nat.lt_of_lt_of_le hlt hle)⟩

/-- A push takes one entry into use, the value pushed. -/
theorem pushed (h : s.EvenCounters) {w : Word} (hw : w.toNat % 2 = 0) (hlt : s.sp.val < 16) :
    ((s.setStack (s.stack.set s.sp.val w)).setSp ⟨s.sp.val + 1, Nat.succ_lt_succ hlt⟩).EvenCounters := by
  refine ⟨h.1, fun k hk hk1 => ?_⟩
  have hk1 : k < s.sp.val + 1 := hk1
  simp only [State.setSp_stack, State.setStack_stack, Vector.getElem_set]
  split
  · exact hw
  · exact h.2 k hk (by omega)

theorem of_execRet (hs : s.EvenCounters) (h : execRet s = .next t) : t.EvenCounters := by
  obtain ⟨hpos, h16, _, rfl⟩ | ⟨_, rfl⟩ := execRet_cases h
  · exact (hs.advance.setSp_of_le (Nat.sub_le _ _)).setPc (hs.2 _ h16 (by omega))
  · exact hs

theorem of_execCall (hs : s.EvenCounters) {nnn : Addr} (hnnn : nnn.toNat % 2 = 0) (h : execCall nnn s = .next t) :
    t.EvenCounters := by
  obtain ⟨hlt, rfl⟩ | ⟨_, rfl⟩ := execCall_cases h
  · exact (hs.advance.pushed (toNat_add_two_even hs.1) hlt).setPc (by rwa [toNat_zext_addr])
  · exact hs

end State.EvenCounters

/-- The sum `nnn + V0` is even when both are; it is below 2^16, so nothing is lost. -/
theorem jumpV0Target_even {nnn : Addr} {b : Byte} (hn : nnn.toNat % 2 = 0) (hb : b.toNat % 2 = 0) :
    (jumpV0Target nnn b).toNat % 2 = 0 := by
  rw [jumpV0Target, BitVec.toNat_add, toNat_zext_addr, toNat_zext_byte]
  omega

/-- Settles O25: the counter moves by 2 or 4 or to an even target, and CALL pushes an even return address. -/
theorem countersStayEven : Obligations.CountersStayEven := fun i s t hs htarget hv0 h => by
  cases i
  case ret => exact .of_execRet hs h
  case call nnn => exact .of_execCall hs (htarget nnn (by simp)) h
  case skp x =>
    obtain ⟨_, _, rfl⟩ | ⟨_, rfl⟩ := execSkp_cases h
    · exact hs.advance.skipIf _
    · exact hs
  case sknp x =>
    obtain ⟨_, _, rfl⟩ | ⟨_, rfl⟩ := execSknp_cases h
    · exact hs.advance.skipIf _
    · exact hs
  case ldVxK x => obtain ⟨_, _, rfl⟩ | ⟨_, rfl⟩ := execLdVxK_cases h <;> exact hs.advance
  all_goals obtain rfl := Host.Outcome.next.inj h
  case jp nnn => exact hs.setPc (by rw [toNat_zext_addr]; exact htarget nnn (by simp))
  case jpV0 nnn => exact hs.setPc (jumpV0Target_even (htarget nnn (by simp)) (hv0 nnn rfl))
  case seVxNn x nn => exact hs.advance.skipIf _
  case sneVxNn x nn => exact hs.advance.skipIf _
  case seVxVy x y => exact hs.advance.skipIf _
  case sneVxVy x y => exact hs.advance.skipIf _
  case drw x y n => exact (hs.advance.setFb _).setV _
  case ldVxMem x => exact hs.advance.setV _
  all_goals exact hs.advance

end Sys2Proof.Machine
end

section
/-! The schedule is run as the sequence of its transactions (10_state.md R53 to R55): no transaction reads or writes what is
still to come, so it commutes with setting the schedule. -/

namespace Sys2Proof.Machine

open Host (Outcome)

/-- The outcome with `f` applied to a next state. -/
def mapNext (f : State → State) : Outcome State Fault Refusal → Outcome State Fault Refusal
  | .next t => .next (f t)
  | .fault r => .fault r
  | .refused r => .refused r

variable (s : State) (rest : List Transaction)

theorem State.skipIf_setSchedule (c : Bool) : (s.setSchedule rest).skipIf c = (s.skipIf c).setSchedule rest := by
  cases c <;> rfl

/-! The branching meanings: the schedule decides no branch. -/

theorem execRet_setSchedule : execRet (s.setSchedule rest) = mapNext (·.setSchedule rest) (execRet s) := by
  by_cases h0 : s.sp.val = 0
  · rw [execRet_of_empty h0, execRet_of_empty (s := s.setSchedule rest) h0]
    rfl
  · have hpos := Nat.pos_of_ne_zero h0
    rw [execRet_of_pos hpos, execRet_of_pos (s := s.setSchedule rest) hpos]
    rfl

theorem execCall_setSchedule (nnn : Addr) :
    execCall nnn (s.setSchedule rest) = mapNext (·.setSchedule rest) (execCall nnn s) := by
  by_cases hlt : s.sp.val < 16
  · rw [execCall_of_lt nnn hlt, execCall_of_lt (s := s.setSchedule rest) nnn hlt]
    rfl
  · have hfull : s.sp.val = 16 := by omega
    rw [execCall_of_full nnn hfull, execCall_of_full (s := s.setSchedule rest) nnn hfull]
    rfl

theorem execSkp_setSchedule (x : Reg) :
    execSkp x (s.setSchedule rest) = mapNext (·.setSchedule rest) (execSkp x s) := by
  by_cases hx : (s.readV x).toNat < 16
  · rw [execSkp_of_le ⟨_, hx⟩ rfl, execSkp_of_le (s := s.setSchedule rest) ⟨_, hx⟩ rfl]
    exact congrArg Outcome.next (State.skipIf_setSchedule s.advance rest _)
  · have hgt : 15 < (s.readV x).toNat := by omega
    rw [execSkp_of_gt hgt, execSkp_of_gt (s := s.setSchedule rest) hgt]
    rfl

theorem execSknp_setSchedule (x : Reg) :
    execSknp x (s.setSchedule rest) = mapNext (·.setSchedule rest) (execSknp x s) := by
  by_cases hx : (s.readV x).toNat < 16
  · rw [execSknp_of_le ⟨_, hx⟩ rfl, execSknp_of_le (s := s.setSchedule rest) ⟨_, hx⟩ rfl]
    exact congrArg Outcome.next (State.skipIf_setSchedule s.advance rest _)
  · have hgt : 15 < (s.readV x).toNat := by omega
    rw [execSknp_of_gt hgt, execSknp_of_gt (s := s.setSchedule rest) hgt]
    rfl

theorem execLdVxK_setSchedule (x : Reg) :
    execLdVxK x (s.setSchedule rest) = mapNext (·.setSchedule rest) (execLdVxK x s) := by
  cases hk : s.selectKey with
  | some k =>
    rw [execLdVxK_of_some x hk, execLdVxK_of_some (s := s.setSchedule rest) x hk]
    rfl
  | none =>
    rw [execLdVxK_of_none x hk, execLdVxK_of_none (s := s.setSchedule rest) x hk]
    rfl

/-- An instruction does the same whatever is scheduled, and keeps the schedule. -/
theorem exec_setSchedule (i : Instr) :
    exec i (s.setSchedule rest) = mapNext (·.setSchedule rest) (exec i s) := by
  cases i
  case ret => exact execRet_setSchedule s rest
  case call nnn => exact execCall_setSchedule s rest nnn
  case skp x => exact execSkp_setSchedule s rest x
  case sknp x => exact execSknp_setSchedule s rest x
  case ldVxK x => exact execLdVxK_setSchedule s rest x
  case seVxNn x nn => exact congrArg Outcome.next (State.skipIf_setSchedule s.advance rest _)
  case sneVxNn x nn => exact congrArg Outcome.next (State.skipIf_setSchedule s.advance rest _)
  case seVxVy x y => exact congrArg Outcome.next (State.skipIf_setSchedule s.advance rest _)
  case sneVxVy x y => exact congrArg Outcome.next (State.skipIf_setSchedule s.advance rest _)
  all_goals rfl

theorem State.runInstruction_setSchedule :
    (s.setSchedule rest).runInstruction = mapNext (·.setSchedule rest) s.runInstruction := by
  have hfetch : (s.setSchedule rest).fetchWord = s.fetchWord := rfl
  unfold State.runInstruction
  rw [hfetch]
  cases decode s.fetchWord with
  | instr i => exact exec_setSchedule s rest i
  | unmapped op => rfl

theorem State.coreStep_setSchedule :
    (s.setSchedule rest).coreStep = mapNext (·.setSchedule rest) s.coreStep := by
  have hrun : (s.setSchedule rest).run = s.run := rfl
  unfold State.coreStep
  rw [hrun]
  cases s.run with
  | running => exact s.runInstruction_setSchedule rest
  | waitKey x =>
    have hkey : (s.setSchedule rest).selectKey = s.selectKey := rfl
    simp only [State.completeWait, hkey]
    cases s.selectKey <;> rfl
  | faulted record => rfl

/-- A transaction does the same whatever is scheduled, and keeps the schedule: RESET too (log entry 4). -/
theorem State.transact_setSchedule (tx : Transaction) :
    ((s.setSchedule rest).transact tx).2 = (s.transact tx).2.setSchedule rest := by
  cases tx with
  | reset t0 rate =>
    simp only [State.transact]
    split <;> rfl
  | loadProgram bytes =>
    simp only [State.transact, State.loadProgram]
    split <;> rfl
  | coreStep =>
    simp only [State.transact, State.stepTransaction, State.coreStep_setSchedule]
    cases s.coreStep with
    | next t => rfl
    | fault r => cases r <;> rfl
    | refused r => rfl
  | advanceTimers now =>
    have hticks : (s.setSchedule rest).ticksElapsed now = s.ticksElapsed now := rfl
    simp only [State.transact, State.advanceTimers, hticks]
    split <;> rfl
  | snapshotFramebuffer => rfl
  | setKeyState key pressed =>
    simp only [State.transact, State.setKeyState]
    split <;> rfl
  | isSoundActive => rfl
  | setInstructionRate hz =>
    simp only [State.transact, State.setInstructionRate]
    split <;> rfl
  | inspect => rfl
  | stepEnded now => rfl

/-- A run whose first step answers `t` is that step and the run from `t`. -/
theorem core_run_succ {s t : State} (h : step s = .next t) (k : Nat) :
    Host.Core.run Sys2Proof.core (k + 1) s = Host.Core.run Sys2Proof.core k t := by
  have hstep : Sys2Proof.core.step s = .next t := h
  simp only [Host.Core.run, hstep]

/-- Settles O54, by induction on the list scheduled: the first step takes its first transaction and leaves the others scheduled. -/
theorem scheduleRunsEveryInterleaving : Obligations.ScheduleRunsEveryInterleaving := by
  intro ts
  induction ts with
  | nil => exact fun s => rfl
  | cons tx rest ih =>
    intro s
    have hstep : step (s.setSchedule (tx :: rest)) = .next ((s.transact tx).2.setSchedule rest) := by
      rw [← State.transact_setSchedule]
      exact step_of_scheduled rfl
    rw [List.length_cons, core_run_succ hstep, ih, ← State.transact_setSchedule s [] tx]
    rfl

end Sys2Proof.Machine
end

section
/-! Fetch, self-modification and the host's load (20_memory.md R83, R86, R93, R99): what a word's bytes are, and where a string
of stores is read back. -/

namespace Sys2Proof.Machine

theorem toNat_wordOfBytes (hi lo : Byte) : (wordOfBytes hi lo).toNat = 256 * hi.toNat + lo.toNat := by
  rw [wordOfBytes, BitVec.toNat_append, Nat.shiftLeft_eq, Nat.mul_comm, ← Nat.two_pow_add_eq_or_of_lt lo.isLt]

/-- The address after `a`, reduced, is 0x000 after 0xFFF (R83). -/
theorem wrapAddr_succ (a : Nat) : wrapAddr (a + 1) = if a % 4096 = 0xFFF then 0x000 else a % 4096 + 1 := by
  simp only [wrapAddr, Config.memSize]
  split <;> omega

/-- Settles O8: the word is its two bytes, and a read sees the reduced address only. -/
theorem fetchIsBigEndianAndWraps : Obligations.FetchIsBigEndianAndWraps := fun s => by
  have hhi : s.mem.read (s.pc.toNat % 4096) = s.mem.read s.pc.toNat := s.mem.read_wrapAddr s.pc.toNat
  rw [hhi, ← wrapAddr_succ, Memory.read_wrapAddr]
  exact toNat_wordOfBytes _ _

variable {s t : State}

/-- A running core with nothing scheduled runs the instruction that the word at `pc` decodes to (R140). -/
theorem step_of_decode {i : Instr} (hidle : s.schedule = []) (hrun : s.run = .running)
    (hdec : decode s.fetchWord = .instr i) : step s = exec i s := by
  simp only [step_of_idle hidle, State.coreStep, hrun, State.runInstruction, hdec]

/-- LD [I], Vx leaves `V[k]` at `I + k` for every `k` up to `x` (R215). -/
theorem read_of_execLdMemVx {x : Reg} (h : exec (.ldMemVx x) s = .next t) {k : Nat} (hk : k < 16) (hkx : k ≤ x.val) :
    t.mem.read (s.index.toNat + k) = s.readV ⟨k, hk⟩ := by
  obtain rfl := Host.Outcome.next.inj h
  have hlen : (s.registersUpTo x).length = x.val + 1 := s.length_registersUpTo x
  have hget : (s.registersUpTo x)[k] = s.readV ⟨k, hk⟩ := s.getElem_registersUpTo x k (by omega) hk
  rw [← hget]
  exact Memory.read_storeBytes_at _ _ _ k (by omega) (by simp only [Config.memSize]; omega)

/-- Settles O32: the two bytes that the next step fetches are the two registers stored there. -/
theorem storeIsSeenByNextFetch : Obligations.StoreIsSeenByNextFetch := by
  intro s t x k hk i hidle hrun hkx haddr h hdec
  have hlo : wrapAddr ((s.pc + 2#16).toNat + 1) = wrapAddr (s.index.toNat + (k + 1)) := by
    rw [← wrapAddr_add_wrap, ← haddr, wrapAddr_add_wrap, Nat.add_assoc]
  have hfetch : t.fetchWord = wordOfBytes (s.readV ⟨k, by omega⟩) (s.readV ⟨k + 1, hk⟩) := by
    have hpc : t.pc = s.pc + 2#16 := by
      obtain rfl := Host.Outcome.next.inj h
      rfl
    rw [State.fetchWord, Memory.fetch16, hpc, Memory.read_congr t.mem haddr.symm, Memory.read_congr t.mem hlo,
      read_of_execLdMemVx h _ (by omega), read_of_execLdMemVx h _ hkx]
  have hframe : t.schedule = s.schedule ∧ t.run = s.run := by
    obtain rfl := Host.Outcome.next.inj h
    exact ⟨rfl, rfl⟩
  exact step_of_decode (hframe.1.trans hidle) (hframe.2.trans hrun) (hfetch ▸ hdec)

/-- Settles O56: an image that fits does not wrap, so that its bytes and the bytes around it keep apart. -/
theorem loadProgramIsAllOrNothing : Obligations.LoadProgramIsAllOrNothing := by
  intro s bytes
  refine ⟨fun hlong => if_pos hlong, fun hfits => ⟨_, if_neg (Nat.not_lt.2 hfits), ?_, ?_, ?_⟩⟩
  · intro i hi
    exact Memory.read_storeBytes_at bytes s.mem 0x200 i hi (Nat.le_trans hfits (by decide))
  · intro a ha hout
    refine Memory.read_storeBytes_off bytes s.mem 0x200 a fun k hk => ?_
    simp only [wrapAddr, Config.memSize]
    omega
  · intro p hp
    cases p with
    | mem => exact absurd (List.mem_singleton.2 rfl) hp
    | v => exact fun _ => rfl
    | _ => rfl

end Sys2Proof.Machine
end

section
/-! The canonical form of memory is one for each memory (20_memory.md R80). -/

namespace Sys2Proof.Machine

theorem Memory.read_nil (x : Nat) : Memory.read [] x = Memory.initial (wrapAddr x) := rfl

theorem Memory.read_cons (a : Nat) (b : Byte) (rest : Memory) (x : Nat) :
    Memory.read ((a, b) :: rest) x = if a = wrapAddr x then b else Memory.read rest x := by
  simp only [Memory.read, Memory.find?]
  split <;> rfl

/-- Below the lowest address of a canonical list memory reads as reset left it. -/
theorem Memory.read_of_lt {lo : Nat} {m : Memory} (h : Memory.wfFrom lo m = true) {x : Nat} (hx : wrapAddr x < lo) :
    m.read x = Memory.initial (wrapAddr x) := by
  simp [Memory.read, Memory.find?_of_lt h hx]

/-- A canonical list is one from the address of its first byte on. -/
theorem Memory.wfFrom_head {lo a : Nat} {b : Byte} {rest : Memory} (h : Memory.wfFrom lo ((a, b) :: rest) = true) :
    Memory.wfFrom a ((a, b) :: rest) = true :=
  (Memory.wfFrom_cons ..).2 ⟨Nat.le_refl a, ((Memory.wfFrom_cons ..).1 h).2⟩

/-- The first byte listed is not what reset left there, so a canonical memory that reads alike lists one no later. -/
theorem Memory.not_wfFrom_of_lt {lo lo' a : Nat} {b : Byte} {rest m' : Memory}
    (h : Memory.wfFrom lo ((a, b) :: rest) = true) (hread : ∀ x, Memory.read ((a, b) :: rest) x = m'.read x)
    (hlt : a < lo') : ¬ Memory.wfFrom lo' m' = true := fun h' => by
  obtain ⟨_, hsize, hb, _⟩ := (Memory.wfFrom_cons ..).1 h
  have hwrap : wrapAddr a = a := Nat.mod_eq_of_lt hsize
  have hab := hread a
  rw [Memory.read_cons, if_pos hwrap.symm, Memory.read_of_lt h' (by rwa [hwrap]), hwrap] at hab
  exact hb hab

/-- Two canonical lists with the same first byte that read alike have rests that read alike. -/
theorem Memory.read_rest_eq {a : Nat} {b : Byte} {rest rest' : Memory} (h : Memory.wfFrom (a + 1) rest = true)
    (h' : Memory.wfFrom (a + 1) rest' = true)
    (hread : ∀ x, Memory.read ((a, b) :: rest) x = Memory.read ((a, b) :: rest') x) (x : Nat) :
    Memory.read rest x = Memory.read rest' x := by
  by_cases hx : a = wrapAddr x
  · have hlt : wrapAddr x < a + 1 := by omega
    rw [Memory.read_of_lt h hlt, Memory.read_of_lt h' hlt]
  · simpa only [Memory.read_cons, if_neg hx] using hread x

/-- Canonical lists that read alike are equal, by induction along both: the first bytes stand at one address, and are one byte. -/
theorem Memory.eq_of_read_eq {lo : Nat} {m m' : Memory} (h : Memory.wfFrom lo m = true) (h' : Memory.wfFrom lo m' = true)
    (hread : ∀ x, m.read x = m'.read x) : m = m' := by
  induction m generalizing lo m' with
  | nil =>
    cases m' with
    | nil => rfl
    | cons c' rest' =>
      have hnil := Memory.not_wfFrom_of_lt h' (fun x => (hread x).symm) (Nat.lt_succ_self c'.1)
      exact absurd (Memory.wfFrom_nil _) hnil
  | cons c rest ih =>
    obtain ⟨a, b⟩ := c
    cases m' with
    | nil => exact absurd (Memory.wfFrom_nil _) (Memory.not_wfFrom_of_lt h hread (Nat.lt_succ_self a))
    | cons c' rest' =>
      obtain ⟨a', b'⟩ := c'
      have hle : a' ≤ a := Nat.le_of_not_lt fun hlt => Memory.not_wfFrom_of_lt h hread hlt (Memory.wfFrom_head h')
      have hge : a ≤ a' := Nat.le_of_not_lt fun hlt =>
        Memory.not_wfFrom_of_lt h' (fun x => (hread x).symm) hlt (Memory.wfFrom_head h)
      obtain rfl := Nat.le_antisymm hge hle
      obtain ⟨_, hsize, _, hrest⟩ := (Memory.wfFrom_cons ..).1 h
      obtain ⟨_, _, _, hrest'⟩ := (Memory.wfFrom_cons ..).1 h'
      have hwrap : a = wrapAddr a := (Nat.mod_eq_of_lt hsize).symm
      obtain rfl : b = b' := by simpa only [Memory.read_cons, if_pos hwrap] using hread a
      exact congrArg _ (ih hrest hrest' (Memory.read_rest_eq hrest hrest' hread))

/-- Settles O33: the canonical form is the one from address 0 on. -/
theorem memoriesReadingAlikeAreEqual : Obligations.MemoriesReadingAlikeAreEqual := fun _ _ =>
  Memory.eq_of_read_eq

end Sys2Proof.Machine
end

section
/-! Which instruction writes which part of the state (20_memory.md R84 and the rule of each instruction): the registers and `run`
by a lemma each, every other part but `pc` by the table `Part.WrittenBy`. -/

namespace Sys2Proof.Machine

variable {s t : State} {i : Instr}

/-! The general registers. -/

theorem State.readV_writeV_of_ne (s : State) {x r : Reg} (h : r ≠ x) (b : Byte) : (s.writeV x b).readV r = s.readV r := by
  rw [State.readV_writeV, if_neg h]

theorem State.readV_writeResultFlag_of_ne (s : State) {x r : Reg} (h : ¬ (r = x ∨ r = regF)) (b c : Byte) :
    (s.writeResultFlag x b c).readV r = s.readV r := by
  obtain ⟨hx, hf⟩ := not_or.1 h
  rw [State.readV_writeResultFlag, if_neg hf, if_neg hx]

/-- An instruction keeps every general register that is neither its destination nor its flag (R31). -/
theorem exec_keeps_readV {r : Reg} (h : exec i s = .next t) (hr : ¬ Writes r i) : t.readV r = s.readV r := by
  cases i
  case ret => obtain ⟨_, _, _, rfl⟩ | ⟨_, rfl⟩ := execRet_cases h <;> rfl
  case call nnn => obtain ⟨_, rfl⟩ | ⟨_, rfl⟩ := execCall_cases h <;> rfl
  case skp x =>
    obtain ⟨_, _, rfl⟩ | ⟨_, rfl⟩ := execSkp_cases h
    · exact State.readV_skipIf ..
    · rfl
  case sknp x =>
    obtain ⟨_, _, rfl⟩ | ⟨_, rfl⟩ := execSknp_cases h
    · exact State.readV_skipIf ..
    · rfl
  case ldVxK x =>
    obtain ⟨_, _, rfl⟩ | ⟨_, rfl⟩ := execLdVxK_cases h
    · exact State.readV_writeV_of_ne _ hr _
    · rfl
  all_goals obtain rfl := Host.Outcome.next.inj h
  case seVxNn x nn => exact State.readV_skipIf ..
  case sneVxNn x nn => exact State.readV_skipIf ..
  case seVxVy x y => exact State.readV_skipIf ..
  case sneVxVy x y => exact State.readV_skipIf ..
  case ldVxNn x nn => exact State.readV_writeV_of_ne _ hr _
  case addVxNn x nn => exact State.readV_writeV_of_ne _ hr _
  case ldVxVy x y => exact State.readV_writeV_of_ne _ hr _
  case orVxVy x y => exact State.readV_writeV_of_ne _ hr _
  case andVxVy x y => exact State.readV_writeV_of_ne _ hr _
  case xorVxVy x y => exact State.readV_writeV_of_ne _ hr _
  case ldVxDt x => exact State.readV_writeV_of_ne _ hr _
  case rndVxNn x nn => exact State.readV_writeV_of_ne _ hr _
  case addVxVy x y => exact State.readV_writeResultFlag_of_ne _ hr _ _
  case subVxVy x y => exact State.readV_writeResultFlag_of_ne _ hr _ _
  case shrVx x y => exact State.readV_writeResultFlag_of_ne _ hr _ _
  case subnVxVy x y => exact State.readV_writeResultFlag_of_ne _ hr _ _
  case shlVx x y => exact State.readV_writeResultFlag_of_ne _ hr _ _
  case drw x y n => exact State.readV_writeV_of_ne _ hr _
  case addIVx x => exact State.readV_writeV_of_ne _ hr _
  case ldVxMem x => exact (State.readV_loadRegisters ..).trans (if_neg hr)
  all_goals rfl

/-! `run`. -/

/-- An instruction keeps `run` unless it starts a key wait, with no key pressed, or takes a fault (R45). -/
theorem exec_run_cases (h : exec i s = .next t) :
    t.run = s.run ∨ (∃ x, i = .ldVxK x ∧ t.run = .waitKey x ∧ ∀ k, s.keyPressed k = false) ∨
    ∃ record, t.run = .faulted record ∧ (i = .ret ∨ ∃ nnn x, i = .call nnn ∨ i = .skp x ∨ i = .sknp x) := by
  cases i
  case ret =>
    obtain ⟨_, _, _, rfl⟩ | ⟨_, rfl⟩ := execRet_cases h
    · exact .inl rfl
    · exact .inr (.inr ⟨_, rfl, .inl rfl⟩)
  case call nnn =>
    obtain ⟨_, rfl⟩ | ⟨_, rfl⟩ := execCall_cases h
    · exact .inl rfl
    · exact .inr (.inr ⟨_, rfl, .inr ⟨nnn, 0, .inl rfl⟩⟩)
  case skp x =>
    obtain ⟨_, _, rfl⟩ | ⟨_, rfl⟩ := execSkp_cases h
    · exact .inl (State.skipIf_run ..)
    · exact .inr (.inr ⟨_, rfl, .inr ⟨0, x, .inr (.inl rfl)⟩⟩)
  case sknp x =>
    obtain ⟨_, _, rfl⟩ | ⟨_, rfl⟩ := execSknp_cases h
    · exact .inl (State.skipIf_run ..)
    · exact .inr (.inr ⟨_, rfl, .inr ⟨0, x, .inr (.inr rfl)⟩⟩)
  case ldVxK x =>
    obtain ⟨_, _, rfl⟩ | ⟨hnone, rfl⟩ := execLdVxK_cases h
    · exact .inl rfl
    · exact .inr (.inl ⟨x, rfl, rfl, (State.selectKey_eq_none s).1 hnone⟩)
  all_goals obtain rfl := Host.Outcome.next.inj h
  case seVxNn x nn => exact .inl (State.skipIf_run ..)
  case sneVxNn x nn => exact .inl (State.skipIf_run ..)
  case seVxVy x y => exact .inl (State.skipIf_run ..)
  case sneVxVy x y => exact .inl (State.skipIf_run ..)
  all_goals exact .inl rfl

/-! The other parts. -/

/-- The part is the same data in `t` as in `s`: memory too, which `Part.Same` compares by its reads. -/
def Part.Kept (s t : State) : Part → Prop
  | .mem => t.mem = s.mem
  | p => p.Same s t

/-- The instructions that may write a part; `pc`, the registers and `run`, which have statements of their own, are left open. -/
def Part.WrittenBy (i : Instr) : Part → Prop
  | .pc | .v | .run => True
  | .mem => ∃ x, i = .ldBVx x ∨ i = .ldMemVx x
  | .fb => i = .cls ∨ ∃ x y n, i = .drw x y n
  | .stack | .sp => i = .ret ∨ ∃ nnn, i = .call nnn
  | .index => ∃ nnn x, i = .ldINnn nnn ∨ i = .addIVx x ∨ i = .ldFVx x
  | .dt => ∃ x, i = .ldDtVx x
  | .st => ∃ x, i = .ldStVx x
  | .diag => ∃ nnn, i = .sysNnn nnn
  | .draws => ∃ x nn, i = .rndVxNn x nn
  | .keys | .tRef | .rate | .tLast | .schedule => False

/-- `t` differs from `s` in parts only that `i` may write. -/
def WritesOwn (i : Instr) (s t : State) : Prop := ∀ p : Part, p.WrittenBy i ∨ p.Kept s t

namespace WritesOwn

theorem refl (i : Instr) (s : State) : WritesOwn i s s := fun p => by
  cases p with
  | v => exact .inr fun _ => rfl
  | _ => exact .inr rfl

theorem setPc (h : WritesOwn i s t) (w : Word) : WritesOwn i s (t.setPc w) := fun p => by
  cases p with
  | pc => exact .inl trivial
  | _ => exact h _

theorem setV (h : WritesOwn i s t) (v : Vector Byte 16) : WritesOwn i s (t.setV v) := fun p => by
  cases p with
  | v => exact .inl trivial
  | _ => exact h _

theorem setRun (h : WritesOwn i s t) (r : RunState) : WritesOwn i s (t.setRun r) := fun p => by
  cases p with
  | run => exact .inl trivial
  | _ => exact h _

theorem setMem (h : WritesOwn i s t) (hi : Part.mem.WrittenBy i) (m : Memory) : WritesOwn i s (t.setMem m) := fun p => by
  cases p with
  | mem => exact .inl hi
  | _ => exact h _

theorem setFb (h : WritesOwn i s t) (hi : Part.fb.WrittenBy i) (f : Framebuffer) : WritesOwn i s (t.setFb f) := fun p => by
  cases p with
  | fb => exact .inl hi
  | _ => exact h _

theorem setStack (h : WritesOwn i s t) (hi : Part.stack.WrittenBy i) (v : Vector Word 16) :
    WritesOwn i s (t.setStack v) := fun p => by
  cases p with
  | stack => exact .inl hi
  | _ => exact h _

theorem setSp (h : WritesOwn i s t) (hi : Part.sp.WrittenBy i) (n : Fin 17) : WritesOwn i s (t.setSp n) := fun p => by
  cases p with
  | sp => exact .inl hi
  | _ => exact h _

theorem setIndex (h : WritesOwn i s t) (hi : Part.index.WrittenBy i) (w : Word) : WritesOwn i s (t.setIndex w) := fun p => by
  cases p with
  | index => exact .inl hi
  | _ => exact h _

theorem setDt (h : WritesOwn i s t) (hi : Part.dt.WrittenBy i) (b : Byte) : WritesOwn i s (t.setDt b) := fun p => by
  cases p with
  | dt => exact .inl hi
  | _ => exact h _

theorem setSt (h : WritesOwn i s t) (hi : Part.st.WrittenBy i) (b : Byte) : WritesOwn i s (t.setSt b) := fun p => by
  cases p with
  | st => exact .inl hi
  | _ => exact h _

theorem setDiag (h : WritesOwn i s t) (hi : Part.diag.WrittenBy i) (l : List Diagnostic) :
    WritesOwn i s (t.setDiag l) := fun p => by
  cases p with
  | diag => exact .inl hi
  | _ => exact h _

theorem setDraws (h : WritesOwn i s t) (hi : Part.draws.WrittenBy i) (n : Nat) : WritesOwn i s (t.setDraws n) := fun p => by
  cases p with
  | draws => exact .inl hi
  | _ => exact h _

theorem skipIf (h : WritesOwn i s t) (c : Bool) : WritesOwn i s (t.skipIf c) := by
  cases c with
  | false => exact h
  | true => exact h.setPc _

/-- Every step begins with the advance (R142). -/
theorem advance (i : Instr) (s : State) : WritesOwn i s s.advance := (refl i s).setPc _

end WritesOwn

/-- Every instruction writes only what the table lets it. -/
theorem exec_writesOwn (h : exec i s = .next t) : WritesOwn i s t := by
  have hrefl := WritesOwn.refl i s
  have hadv := WritesOwn.advance i s
  cases i
  case ret =>
    obtain ⟨_, _, _, rfl⟩ | ⟨_, rfl⟩ := execRet_cases h
    · exact (hadv.setSp (.inl rfl) _).setPc _
    · exact hrefl.setRun _
  case call nnn =>
    obtain ⟨_, rfl⟩ | ⟨_, rfl⟩ := execCall_cases h
    · exact ((hadv.setStack (.inr ⟨nnn, rfl⟩) _).setSp (.inr ⟨nnn, rfl⟩) _).setPc _
    · exact hrefl.setRun _
  case skp x =>
    obtain ⟨_, _, rfl⟩ | ⟨_, rfl⟩ := execSkp_cases h
    · exact hadv.skipIf _
    · exact hrefl.setRun _
  case sknp x =>
    obtain ⟨_, _, rfl⟩ | ⟨_, rfl⟩ := execSknp_cases h
    · exact hadv.skipIf _
    · exact hrefl.setRun _
  case ldVxK x =>
    obtain ⟨_, _, rfl⟩ | ⟨_, rfl⟩ := execLdVxK_cases h
    · exact hadv.setV _
    · exact hadv.setRun _
  all_goals obtain rfl := Host.Outcome.next.inj h
  case cls => exact hadv.setFb (.inl rfl) _
  case drw x y n => exact (hadv.setFb (.inr ⟨x, y, n, rfl⟩) _).setV _
  case jp nnn => exact hadv.setPc _
  case jpV0 nnn => exact hadv.setPc _
  case seVxNn x nn => exact hadv.skipIf _
  case sneVxNn x nn => exact hadv.skipIf _
  case seVxVy x y => exact hadv.skipIf _
  case sneVxVy x y => exact hadv.skipIf _
  case ldINnn nnn => exact hadv.setIndex ⟨nnn, 0, .inl rfl⟩ _
  case addIVx x => exact (hadv.setIndex ⟨0, x, .inr (.inl rfl)⟩ _).setV _
  case ldFVx x => exact hadv.setIndex ⟨0, x, .inr (.inr rfl)⟩ _
  case ldBVx x => exact hadv.setMem ⟨x, .inl rfl⟩ _
  case ldMemVx x => exact hadv.setMem ⟨x, .inr rfl⟩ _
  case ldVxMem x => exact hadv.setV _
  case ldDtVx x => exact hadv.setDt ⟨x, rfl⟩ _
  case ldStVx x => exact hadv.setSt ⟨x, rfl⟩ _
  case rndVxNn x nn => exact (hadv.setDraws ⟨x, nn, rfl⟩ _).setV _
  case sysNnn nnn => exact hadv.setDiag ⟨nnn, rfl⟩ _
  all_goals exact hadv.setV _

/-- Settles O50: the registers and `run` by their lemmas, every other part by the table. -/
theorem instructionsWriteOnlyTheirState : Obligations.InstructionsWriteOnlyTheirState := by
  intro i s t h
  have hown := exec_writesOwn h
  have hkept {p : Part} (hp : ¬ p.WrittenBy i) : p.Kept s t := (hown p).resolve_left hp
  have hwriter {p : Part} (hp : ¬ p.Kept s t) : p.WrittenBy i := (hown p).resolve_right hp
  exact ⟨fun r => not_imp_comm.1 (exec_keeps_readV h), hwriter (p := .mem), hwriter (p := .fb),
    Or.rec (hwriter (p := .stack)) (hwriter (p := .sp)), hwriter (p := .index), hwriter (p := .dt), hwriter (p := .st),
    hwriter (p := .diag), (exec_run_cases h).resolve_left, hwriter (p := .draws), hkept (p := .keys) id,
    hkept (p := .tRef) id, hkept (p := .rate) id, hkept (p := .tLast) id, hkept (p := .schedule) id⟩

end Sys2Proof.Machine
end

section
/-! Decoder and encoder against each other, and the unmapped words (30_encoding.md R111 to R116, R120). What a word decodes to is
read off group by group, and a mapped word is put together again format by format. -/

namespace Sys2Proof

variable {op p : Word}

/-- Settles O1: one round trip for each constructor. -/
theorem decodeOfEncodeIsIdentity : Obligations.DecodeOfEncodeIsIdentity
  | .cls => Laws.RoundTrip.cls
  | .ret => Laws.RoundTrip.ret
  | .jp nnn => Laws.RoundTrip.jp nnn
  | .call nnn => Laws.RoundTrip.call nnn
  | .seVxNn x nn => Laws.RoundTrip.seVxNn x nn
  | .sneVxNn x nn => Laws.RoundTrip.sneVxNn x nn
  | .seVxVy x y => Laws.RoundTrip.seVxVy x y
  | .ldVxNn x nn => Laws.RoundTrip.ldVxNn x nn
  | .addVxNn x nn => Laws.RoundTrip.addVxNn x nn
  | .ldVxVy x y => Laws.RoundTrip.ldVxVy x y
  | .orVxVy x y => Laws.RoundTrip.orVxVy x y
  | .andVxVy x y => Laws.RoundTrip.andVxVy x y
  | .xorVxVy x y => Laws.RoundTrip.xorVxVy x y
  | .addVxVy x y => Laws.RoundTrip.addVxVy x y
  | .subVxVy x y => Laws.RoundTrip.subVxVy x y
  | .shrVx x y => Laws.RoundTrip.shrVx x y
  | .subnVxVy x y => Laws.RoundTrip.subnVxVy x y
  | .shlVx x y => Laws.RoundTrip.shlVx x y
  | .sneVxVy x y => Laws.RoundTrip.sneVxVy x y
  | .ldINnn nnn => Laws.RoundTrip.ldINnn nnn
  | .jpV0 nnn => Laws.RoundTrip.jpV0 nnn
  | .rndVxNn x nn => Laws.RoundTrip.rndVxNn x nn
  | .drw x y n => Laws.RoundTrip.drw x y n
  | .skp x => Laws.RoundTrip.skp x
  | .sknp x => Laws.RoundTrip.sknp x
  | .ldVxDt x => Laws.RoundTrip.ldVxDt x
  | .ldVxK x => Laws.RoundTrip.ldVxK x
  | .ldDtVx x => Laws.RoundTrip.ldDtVx x
  | .ldStVx x => Laws.RoundTrip.ldStVx x
  | .addIVx x => Laws.RoundTrip.addIVx x
  | .ldFVx x => Laws.RoundTrip.ldFVx x
  | .ldBVx x => Laws.RoundTrip.ldBVx x
  | .ldMemVx x => Laws.RoundTrip.ldMemVx x
  | .ldVxMem x => Laws.RoundTrip.ldVxMem x
  | .sysNnn nnn => Laws.RoundTrip.sysNnn nnn

/-! A word is its pattern and its fields, for each format with operands (R112, R120): `p` is the word with a 0 in every operand's
place, so its number is the high nibble's part and the selector's. -/

theorem pattern_add_nnn (hp : p.toNat = Word.h op * 4096) : p + putNnn (Word.nnn op) = op := by
  simp only [Word.h] at hp
  apply BitVec.eq_of_toNat_eq
  simp only [BitVec.toNat_add, toNat_putNnn, Word.toNat_nnn]
  omega

theorem pattern_add_x_nn (hp : p.toNat = Word.h op * 4096) : p + putX (Word.x op) + putNn (Word.nn op) = op := by
  simp only [Word.h] at hp
  apply BitVec.eq_of_toNat_eq
  simp only [BitVec.toNat_add, toNat_putX, toNat_putNn, Word.toNat_nn, Word.x]
  omega

theorem pattern_add_x_y (hp : p.toNat = Word.h op * 4096 + (Word.n op).val) :
    p + putX (Word.x op) + putY (Word.y op) = op := by
  simp only [Word.h, Word.n] at hp
  apply BitVec.eq_of_toNat_eq
  simp only [BitVec.toNat_add, toNat_putX, toNat_putY, Word.x, Word.y]
  omega

theorem pattern_add_x_y_n (hp : p.toNat = Word.h op * 4096) :
    p + putX (Word.x op) + putY (Word.y op) + putN (Word.n op) = op := by
  simp only [Word.h] at hp
  apply BitVec.eq_of_toNat_eq
  simp only [BitVec.toNat_add, toNat_putX, toNat_putY, toNat_putN, Word.x, Word.y, Word.n]
  omega

theorem pattern_add_x (hp : p.toNat = Word.h op * 4096 + (Word.nn op).toNat) : p + putX (Word.x op) = op := by
  simp only [Word.h, Word.toNat_nn] at hp
  apply BitVec.eq_of_toNat_eq
  simp only [BitVec.toNat_add, toNat_putX, Word.x]
  omega

/-- What `d` says of the word it was read from: an instruction is well-formed and has that word, an unmapped answer carries it. -/
def Decoded.Reads (op : Word) : Decoded → Prop
  | .instr i => i.wf = true ∧ encode i = op
  | .unmapped op' => op' = op

theorem decodeGroup0_reads (h : Word.h op = 0x0) : (decodeGroup0 op).Reads op := by
  unfold decodeGroup0
  split
  case h_1 hop => exact ⟨rfl, BitVec.eq_of_toNat_eq hop.symm⟩
  case h_2 hop => exact ⟨rfl, BitVec.eq_of_toNat_eq hop.symm⟩
  case h_3 hcls hret =>
    have hnnn : putNnn (Word.nnn op) = op := (BitVec.zero_add _).symm.trans (pattern_add_nnn (by rw [h]; rfl))
    have hne {a : Addr} (ha : op.toNat ≠ a.toNat) : Word.nnn op ≠ a := fun e => ha (by rw [← e, ← toNat_putNnn, hnnn])
    have hwf : Word.nnn op ≠ 0x0E0#12 ∧ Word.nnn op ≠ 0x0EE#12 := ⟨hne hcls, hne hret⟩
    exact ⟨by simpa [Instr.wf] using hwf, hnnn⟩

theorem decodeGroup8_reads (h : Word.h op = 0x8) : (decodeGroup8 op).Reads op := by
  unfold decodeGroup8
  split
  case h_10 => exact rfl
  all_goals
    rename_i hn
    exact ⟨rfl, pattern_add_x_y (by rw [h, hn]; rfl)⟩

theorem decodeGroupE_reads (h : Word.h op = 0xE) : (decodeGroupE op).Reads op := by
  unfold decodeGroupE
  split
  case h_3 => exact rfl
  all_goals
    rename_i hnn
    exact ⟨rfl, pattern_add_x (by rw [h, hnn]; rfl)⟩

theorem decodeGroupF_reads (h : Word.h op = 0xF) : (decodeGroupF op).Reads op := by
  unfold decodeGroupF
  split
  case h_10 => exact rfl
  all_goals
    rename_i hnn
    exact ⟨rfl, pattern_add_x (by rw [h, hnn]; rfl)⟩

theorem Word.h_lt (op : Word) : Word.h op < 16 := by
  have := op.isLt
  simp only [Word.h]
  omega

/-- The decoder reads each word as it stands (R114). -/
theorem decode_reads (op : Word) : (decode op).Reads op := by
  unfold decode
  split
  case h_1 h => exact decodeGroup0_reads h
  case h_6 h =>
    split
    · next hn => exact ⟨rfl, pattern_add_x_y (by rw [h, hn]; rfl)⟩
    · exact rfl
  case h_9 h => exact decodeGroup8_reads h
  case h_10 h =>
    split
    · next hn => exact ⟨rfl, pattern_add_x_y (by rw [h, hn]; rfl)⟩
    · exact rfl
  case h_14 h => exact ⟨rfl, pattern_add_x_y_n (by rw [h]; rfl)⟩
  case h_15 h => exact decodeGroupE_reads h
  case h_16 => exact decodeGroupF_reads (by grind [Word.h_lt op])
  case h_2 h | h_3 h | h_11 h | h_12 h => exact ⟨rfl, pattern_add_nnn (by rw [h]; rfl)⟩
  case h_4 h | h_5 h | h_7 h | h_8 h | h_13 h => exact ⟨rfl, pattern_add_x_nn (by rw [h]; rfl)⟩

theorem Decoded.reads_of_eq {d : Decoded} (hdec : decode op = d) : d.Reads op := hdec ▸ decode_reads op

/-- Settles O2: the decoder reads each word as it stands. -/
theorem encodeOfDecodeIsIdentity : Obligations.EncodeOfDecodeIsIdentity := fun _ _ hdec => Decoded.reads_of_eq hdec

/-- The word runs as the unmapped no-op: an unmapped answer, or the table's row SYS (R116, R144). -/
def Decoded.isNop : Decoded → Bool
  | .unmapped _ => true
  | .instr (.sysNnn _) => true
  | .instr _ => false

theorem Decoded.isNop_iff {d : Decoded} :
    d.isNop = true ↔ (∃ op, d = .unmapped op) ∨ ∃ nnn, d = .instr (.sysNnn nnn) := by
  constructor
  · intro h
    unfold isNop at h
    split at h
    · exact .inl ⟨_, rfl⟩
    · exact .inr ⟨_, rfl⟩
    · cases h
  · rintro (⟨_, rfl⟩ | ⟨_, rfl⟩) <;> rfl

theorem isNop_decodeGroup0 (op : Word) : (decodeGroup0 op).isNop = (op != 0x00E0#16 && op != 0x00EE#16) := by
  unfold decodeGroup0
  split
  case h_1 hop => rw [show op = 0x00E0#16 from BitVec.eq_of_toNat_eq hop]; rfl
  case h_2 hop => rw [show op = 0x00EE#16 from BitVec.eq_of_toNat_eq hop]; rfl
  case h_3 hcls hret =>
    have hne : op ≠ 0x00E0#16 ∧ op ≠ 0x00EE#16 := ⟨fun e => hcls (by rw [e]; rfl), fun e => hret (by rw [e]; rfl)⟩
    simpa [Decoded.isNop] using hne

theorem isNop_decodeGroup8 (op : Word) :
    (decodeGroup8 op).isNop = [0x8, 0x9, 0xA, 0xB, 0xC, 0xD, 0xF].contains (Word.n op).val := by
  unfold decodeGroup8
  split
  case h_10 =>
    have hn : (Word.n op).val ∈ [0x8, 0x9, 0xA, 0xB, 0xC, 0xD, 0xF] := by
      simp only [List.mem_cons, List.not_mem_nil, or_false]
      grind
    exact (List.elem_eq_true_of_mem hn).symm
  all_goals
    rename_i hn
    rw [hn]
    rfl

theorem isNop_decodeGroupE (op : Word) : (decodeGroupE op).isNop = !([0x9E, 0xA1].contains (Word.nn op).toNat) := by
  unfold decodeGroupE
  split
  case h_3 hskp hsknp =>
    have hnn : (Word.nn op).toNat ≠ 0x9E ∧ (Word.nn op).toNat ≠ 0xA1 := ⟨hskp, hsknp⟩
    simpa [Decoded.isNop] using hnn
  all_goals
    rename_i hnn
    rw [hnn]
    rfl

theorem isNop_decodeGroupF (op : Word) :
    (decodeGroupF op).isNop = !([0x07, 0x0A, 0x15, 0x18, 0x1E, 0x29, 0x33, 0x55, 0x65].contains (Word.nn op).toNat) := by
  unfold decodeGroupF
  split
  case h_10 => simp_all [Decoded.isNop]
  all_goals
    rename_i hnn
    rw [hnn]
    rfl

theorem isNop_decode (op : Word) : (decode op).isNop = isUnmapped op := by
  unfold decode
  split
  case h_1 h => simp [isUnmapped, h, isNop_decodeGroup0]
  case h_6 h => split <;> simp [isUnmapped, *, Decoded.isNop]
  case h_9 h => simp only [isUnmapped, h, isNop_decodeGroup8]
  case h_10 h => split <;> simp [isUnmapped, *, Decoded.isNop]
  case h_15 h => simp only [isUnmapped, h, isNop_decodeGroupE]
  case h_16 =>
    have h : Word.h op = 0xF := by grind [Word.h_lt op]
    simp only [isUnmapped, h, isNop_decodeGroupF]
  all_goals
    rename_i h
    simp [isUnmapped, h, Decoded.isNop]

/-- Settles O3: an unmapped answer carries its word, and R116's list is the no-ops, group by group. -/
theorem unmappedWordsAreThoseListed : Obligations.UnmappedWordsAreThoseListed := fun op => by
  have hcarries (op' : Word) (hdec : decode op = .unmapped op') : op' = op := Decoded.reads_of_eq hdec
  refine ⟨?_, hcarries⟩
  rw [← isNop_decode, Decoded.isNop_iff]
  exact or_congr_left ⟨fun ⟨op', hdec⟩ => hcarries op' hdec ▸ hdec, fun hdec => ⟨op, hdec⟩⟩

/-- Settles O4: each of the nine words is decoded. -/
theorem sampleWordsDecode : Obligations.SampleWordsDecode := by
  unfold Obligations.SampleWordsDecode
  decide

end Sys2Proof
end

section
/-! The core's step (40_execution_cycle.md R140 to R150): what it answers in each run state, the unmapped words, where `pc` goes,
which faults there are, and who ends a stop or a wait. -/

namespace Sys2Proof.Machine

variable {s t : State}

/-! What the core's step answers in each run state. -/

theorem State.coreStep_of_running (h : s.run = .running) : s.coreStep = s.runInstruction := by
  simp only [State.coreStep, h]

theorem State.coreStep_of_faulted {record : FaultRecord} (h : s.run = .faulted record) :
    s.coreStep = .fault (.stopped record) := by
  simp only [State.coreStep, h]

theorem State.coreStep_of_pressed {x : Reg} {k : Key} (h : s.run = .waitKey x) (hk : s.selectKey = some k) :
    s.coreStep = .next ((s.writeV x (keyByte k)).setRun .running) := by
  simp only [State.coreStep, h, State.completeWait, hk, Option.map_some]

theorem State.coreStep_of_unpressed {x : Reg} (h : s.run = .waitKey x) (hk : s.selectKey = none) :
    s.coreStep = .fault (.waitingForKey x) := by
  simp only [State.coreStep, h, State.completeWait, hk, Option.map_none]

/-- The core's step answers a next state, or stops on its fault record or in a key wait with no key pressed (R147, R148). -/
theorem State.coreStep_answers (s : State) :
    (∃ t, s.coreStep = .next t) ∨ (∃ record, s.run = .faulted record ∧ s.coreStep = .fault (.stopped record)) ∨
      ∃ x, s.run = .waitKey x ∧ (∀ k, s.keyPressed k = false) ∧ s.coreStep = .fault (.waitingForKey x) := by
  cases hrun : s.run with
  | running =>
    rw [State.coreStep_of_running hrun]
    exact .inl s.runInstruction_next
  | waitKey x =>
    cases hk : s.selectKey with
    | some k => exact .inl ⟨_, State.coreStep_of_pressed hrun hk⟩
    | none => exact .inr (.inr ⟨x, rfl, s.selectKey_eq_none.1 hk, State.coreStep_of_unpressed hrun hk⟩)
  | faulted record => exact .inr (.inl ⟨record, rfl, State.coreStep_of_faulted hrun⟩)

theorem State.coreStep_ne_refused (s : State) (r : Refusal) : s.coreStep ≠ .refused r := by
  obtain ⟨_, e⟩ | ⟨_, _, e⟩ | ⟨_, _, _, e⟩ := s.coreStep_answers <;> simp [e]

/-- The core's step stops on the fault record, or in a key wait with no key pressed, and nowhere else (R147, R148). -/
theorem State.coreStep_eq_fault_iff {f : Fault} :
    s.coreStep = .fault f ↔ (∃ record, s.run = .faulted record ∧ f = .stopped record) ∨
      ∃ x, s.run = .waitKey x ∧ f = .waitingForKey x ∧ ∀ k, s.keyPressed k = false := by
  constructor
  · intro h
    obtain ⟨_, e⟩ | ⟨record, hrun, e⟩ | ⟨x, hrun, hk, e⟩ := s.coreStep_answers <;> cases e.symm.trans h
    · exact .inl ⟨record, hrun, rfl⟩
    · exact .inr ⟨x, hrun, rfl, hk⟩
  · rintro (⟨record, hrun, rfl⟩ | ⟨x, hrun, rfl, hk⟩)
    · exact State.coreStep_of_faulted hrun
    · exact State.coreStep_of_unpressed hrun (s.selectKey_eq_none.2 hk)

theorem State.stepTransaction_of_next (h : s.coreStep = .next t) : s.stepTransaction = (t.stepAnswer, t) := by
  simp only [State.stepTransaction, h]

theorem State.stepAnswer_of_running (h : s.run = .running) : s.stepAnswer = .ok := by
  simp only [State.stepAnswer, h]

theorem State.stepAnswer_of_faulted {record : FaultRecord} (h : s.run = .faulted record) :
    s.stepAnswer = .fault record := by
  simp only [State.stepAnswer, h]

theorem State.runInstruction_of_decode {i : Instr} (h : decode s.fetchWord = .instr i) : s.runInstruction = exec i s := by
  simp only [State.runInstruction, h]

/-- Settles O5: `fetchWord` is the word of those two bytes. -/
theorem stepRunsDecodedInstruction : Obligations.StepRunsDecodedInstruction := fun _ _ => step_of_decode

/-- Settles O9: an instruction always answers, and a key wait is completed by the key selected. -/
theorem coreStepsExactlyWhenEnabled : Obligations.CoreStepsExactlyWhenEnabled := fun s => by
  refine ⟨⟨?_, ?_⟩, s.coreStep_ne_refused⟩
  · rintro (hrun | ⟨x, hrun, hpressed⟩)
    · rw [State.coreStep_of_running hrun]
      exact s.runInstruction_next
    · obtain ⟨k, hk⟩ := s.selectKey_of_pressed hpressed
      exact ⟨_, State.coreStep_of_pressed hrun hk⟩
  · rintro ⟨t, ht⟩
    obtain ⟨hrun, _⟩ | ⟨x, k, hrun, hk, _⟩ := State.coreStep_cases ht
    · exact .inl hrun
    · exact .inr ⟨x, hrun, k, (s.selectKey_eq_some hk).1⟩

/-- Settles O10: a scheduled transaction answers a next state, and with nothing scheduled the step is the core's. -/
theorem machineStopsOnlyWhenStuck : Obligations.MachineStopsOnlyWhenStuck := fun s => by
  cases hs : s.schedule with
  | nil =>
    rw [step_of_idle hs]
    exact ⟨fun f => by rw [State.coreStep_eq_fault_iff]; simp only [true_and], s.coreStep_ne_refused⟩
  | cons tx rest => simp [step_of_scheduled hs]

/-- Settles O45: the core's step stops on the record. -/
theorem faultedStepChangesNothing : Obligations.FaultedStepChangesNothing := fun s record hrun => by
  have hcore := State.coreStep_of_faulted hrun
  exact ⟨by simp only [State.stepTransaction, hcore], fun hidle => (step_of_idle hidle).trans hcore⟩

/-- Settles O53: the jump writes the `pc` that was there. -/
theorem endOfRunStays : Obligations.EndOfRunStays := by
  rintro s hidle ⟨hrun, nnn, hdec, htarget⟩
  have hjump : exec (.jp nnn) s = .next (s.advance.setPc nnn.zext) := rfl
  rw [step_of_decode hidle hrun hdec, hjump, htarget]
  rfl

/-! The unmapped words (R144, R145). -/

/-- The no-op moves `pc` and appends its event, and leaves everything else (R144). -/
theorem unmappedNop_frame (s : State) (op : Word) : FrameExcept [.pc, .diag] s (s.unmappedNop op) := fun p hp => by
  cases p with
  | pc => exact absurd hp (by decide)
  | diag => exact absurd hp (by decide)
  | v => exact fun _ => rfl
  | mem => exact fun _ => rfl
  | _ => rfl

/-- A word of R116's list runs as the no-op, whether it decodes to SYS or to no row (R116, R144). -/
theorem State.runInstruction_of_isUnmapped (h : isUnmapped s.fetchWord = true) :
    s.runInstruction = .next (s.unmappedNop s.fetchWord) := by
  obtain hdec | ⟨nnn, hdec⟩ := (unmappedWordsAreThoseListed s.fetchWord).1.1 h
  · simp only [State.runInstruction, hdec, execUnmapped]
  · obtain ⟨_, hword⟩ := encodeOfDecodeIsIdentity _ _ hdec
    rw [State.runInstruction_of_decode hdec, ← hword]
    rfl

theorem encode_sysNnn (nnn : Addr) : encode (.sysNnn nnn) = wordA 0x0 nnn := by
  simp [encode, putNnn, wordA, BitVec.ofNat_toNat]

/-- Settles O6: the step is the no-op, which leaves the core running. -/
theorem unmappedWordIsNop : Obligations.UnmappedWordIsNop := by
  intro s hidle hrun hunmapped
  have hcore : s.coreStep = .next (s.unmappedNop s.fetchWord) := by
    rw [State.coreStep_of_running hrun, State.runInstruction_of_isUnmapped hunmapped]
  have hok : (s.unmappedNop s.fetchWord).stepAnswer = .ok := State.stepAnswer_of_running hrun
  have htransaction := State.stepTransaction_of_next hcore
  rw [hok] at htransaction
  exact ⟨_, (step_of_idle hidle).trans hcore, htransaction, rfl, rfl, unmappedNop_frame s _⟩

/-- Settles O7: SYS is the no-op of its own word. -/
theorem sysIsNopWithDiagnostic : Obligations.SysIsNopWithDiagnostic := fun s nnn => by
  have hexec : exec (.sysNnn nnn) s = .next (s.unmappedNop (wordA 0x0 nnn)) := by
    rw [← encode_sysNnn]
    rfl
  exact ⟨_, hexec, rfl, rfl, unmappedNop_frame s _⟩

/-! Where `pc` goes (R142). -/

/-- The advance and a skip move `pc` by one word or by two (R36, R142). -/
theorem State.pc_advance_skipIf (s : State) (c : Bool) :
    (s.advance.skipIf c).pc = s.pc + 2#16 ∨ (s.advance.skipIf c).pc = s.pc + 4#16 := by
  cases c with
  | false => exact .inl rfl
  | true => exact .inr (BitVec.add_assoc s.pc 2#16 2#16)

/-- Settles O24: the six skips advance and may skip, the four jumps set `pc`, and every other instruction only advances. -/
theorem counterAdvancesByWords : Obligations.CounterAdvancesByWords := fun i s t _ h hnofault => by
  cases i
  case ret => exact .inr (.inr ⟨0, by simp⟩)
  case call nnn => exact .inr (.inr ⟨nnn, by simp⟩)
  case jp nnn => exact .inr (.inr ⟨nnn, by simp⟩)
  case jpV0 nnn => exact .inr (.inr ⟨nnn, by simp⟩)
  case skp x =>
    obtain ⟨_, _, rfl⟩ | ⟨_, rfl⟩ := execSkp_cases h
    · exact (s.pc_advance_skipIf _).imp_right fun hpc => .inl ⟨hpc, x, 0, 0, by simp⟩
    · exact absurd rfl (hnofault _)
  case sknp x =>
    obtain ⟨_, _, rfl⟩ | ⟨_, rfl⟩ := execSknp_cases h
    · exact (s.pc_advance_skipIf _).imp_right fun hpc => .inl ⟨hpc, x, 0, 0, by simp⟩
    · exact absurd rfl (hnofault _)
  case ldVxK x => obtain ⟨_, _, rfl⟩ | ⟨_, rfl⟩ := execLdVxK_cases h <;> exact .inl rfl
  all_goals obtain rfl := Host.Outcome.next.inj h
  case seVxNn x nn => exact (s.pc_advance_skipIf _).imp_right fun hpc => .inl ⟨hpc, x, 0, nn, by simp⟩
  case sneVxNn x nn => exact (s.pc_advance_skipIf _).imp_right fun hpc => .inl ⟨hpc, x, 0, nn, by simp⟩
  case seVxVy x y => exact (s.pc_advance_skipIf _).imp_right fun hpc => .inl ⟨hpc, x, y, 0, by simp⟩
  case sneVxVy x y => exact (s.pc_advance_skipIf _).imp_right fun hpc => .inl ⟨hpc, x, y, 0, by simp⟩
  all_goals exact .inl rfl

/-! Faults (R146, R271, R272). -/

/-- Taking a fault changes `run` only (R146, R272). -/
theorem takesFault_raise (s : State) (cause : FaultCause) (op : Word) : TakesFault cause op s (s.raise cause op) := by
  refine ⟨rfl, fun p hp => ?_⟩
  cases p with
  | run => exact absurd hp (by decide)
  | v => exact fun _ => rfl
  | mem => exact fun _ => rfl
  | _ => rfl

/-- An instruction that takes a fault names the word it was decoded from (R120, R146). -/
theorem State.runInstruction_of_raise {i : Instr} {cause : FaultCause} (hdec : decode s.fetchWord = .instr i)
    (h : exec i s = .next (s.raise cause (encode i))) : s.runInstruction = .next (s.raise cause s.fetchWord) := by
  obtain ⟨_, hword⟩ := encodeOfDecodeIsIdentity _ _ hdec
  rw [State.runInstruction_of_decode hdec, h, hword]

/-- When the word at `pc` raises a cause, the step takes that fault (R271). -/
theorem State.runInstruction_of_raises {cause : FaultCause} (h : s.Raises cause) :
    s.runInstruction = .next (s.raise cause s.fetchWord) := by
  cases cause with
  | stackOverflow =>
    obtain ⟨hsp, nnn, hdec⟩ := h
    exact State.runInstruction_of_raise hdec (execCall_of_full nnn (congrArg Fin.val hsp))
  | stackUnderflow =>
    obtain ⟨hsp, hdec⟩ := h
    exact State.runInstruction_of_raise hdec (execRet_of_empty (congrArg Fin.val hsp))
  | keyRange =>
    obtain ⟨x, hdec | hdec, hx⟩ := h
    · exact State.runInstruction_of_raise hdec (execSkp_of_gt hx)
    · exact State.runInstruction_of_raise hdec (execSknp_of_gt hx)

/-- An instruction that ends in a fault raised its cause: a CALL, RET, SKP or SKNP that took its failing branch (R271). -/
theorem raises_of_exec_faulted {i : Instr} {record : FaultRecord} (hdec : decode s.fetchWord = .instr i)
    (hrun : s.run = .running) (h : exec i s = .next t) (hfault : t.run = .faulted record) :
    s.Raises record.cause ∧ record.pc0 = s.pc ∧ record.op = encode i := by
  obtain hkept | ⟨_, _, hwait, _⟩ | ⟨_, _, rfl | ⟨nnn, x, rfl | rfl | rfl⟩⟩ := exec_run_cases h
  · simp [hkept, hrun] at hfault
  · simp [hwait] at hfault
  · obtain ⟨_, _, _, rfl⟩ | ⟨hsp, rfl⟩ := execRet_cases h
    · simp [hrun] at hfault
    · cases hfault
      exact ⟨⟨Fin.ext hsp, hdec⟩, rfl, rfl⟩
  · obtain ⟨_, rfl⟩ | ⟨hsp, rfl⟩ := execCall_cases h
    · simp [hrun] at hfault
    · cases hfault
      exact ⟨⟨Fin.ext hsp, nnn, hdec⟩, rfl, rfl⟩
  · obtain ⟨_, _, rfl⟩ | ⟨hx, rfl⟩ := execSkp_cases h
    · simp [hrun] at hfault
    · cases hfault
      exact ⟨⟨x, .inl hdec, hx⟩, rfl, rfl⟩
  · obtain ⟨_, _, rfl⟩ | ⟨hx, rfl⟩ := execSknp_cases h
    · simp [hrun] at hfault
    · cases hfault
      exact ⟨⟨x, .inr hdec, hx⟩, rfl, rfl⟩

/-- Settles O44: a raised cause is taken as it stands, and a fault was raised by the instruction decoded. -/
theorem faultIsPreciseAndNamesItsWord : Obligations.FaultIsPreciseAndNamesItsWord := by
  intro s hidle hrun
  have hcore := State.coreStep_of_running hrun
  rw [step_of_idle hidle]
  refine ⟨fun cause hraises => ?_, fun t record h hfault => ?_⟩
  · have htaken := hcore.trans (State.runInstruction_of_raises hraises)
    have htransaction := State.stepTransaction_of_next htaken
    rw [State.stepAnswer_of_faulted (s.raise_run cause s.fetchWord)] at htransaction
    exact ⟨_, htaken, htransaction, takesFault_raise s cause s.fetchWord⟩
  · obtain ⟨i, hdec, hexec⟩ | ⟨op, _, rfl⟩ := State.runInstruction_cases (hcore ▸ h)
    · obtain ⟨_, hword⟩ := encodeOfDecodeIsIdentity _ _ hdec
      exact hword ▸ raises_of_exec_faulted hdec hrun hexec hfault
    · simp [hrun] at hfault

/-! Who ends a stop or a wait (R147, R148, R276). -/

/-- A step is a RESET, keeps `run`, or is the core's, whatever is scheduled after it (R53, R310). -/
theorem step_run_cases (h : step s = .next t) :
    (∃ t0 r rest, s.schedule = .reset t0 r :: rest) ∨ t.run = s.run ∨ ∃ rest, (s.setSchedule rest).coreStep = .next t := by
  obtain ⟨_, hcore⟩ | ⟨tx, rest, hs, rfl⟩ := step_cases h
  · exact .inr (.inr ⟨s.schedule, hcore⟩)
  · obtain ⟨t0, r, rfl⟩ | hsame | hcore | hrun := ((s.setSchedule rest).transact_cases tx).2
    · exact .inl ⟨t0, r, rest, hs⟩
    · exact .inr (.inl ((congrArg State.run hsame).trans (State.setSchedule_run ..)))
    · exact .inr (.inr ⟨rest, hcore⟩)
    · exact .inr (.inl hrun)

/-- Settles O46: in `FAULTED` the core has no step, and in a key wait its step is the completion on the key selected. -/
theorem onlyResetLeavesFaultedOrAbandonsWait : Obligations.OnlyResetLeavesFaultedOrAbandonsWait := fun s t h => by
  obtain hreset | hkept | ⟨rest, hcore⟩ := step_run_cases h
  · exact ⟨fun _ _ => .inr hreset, fun _ _ => .inr (.inr hreset)⟩
  · exact ⟨fun _ hrun => .inl (hkept.trans hrun), fun _ hrun => .inl (hkept.trans hrun)⟩
  · obtain ⟨hrunning, _⟩ | ⟨x, k, hwait, hk, rfl⟩ := State.coreStep_cases hcore
    · rw [State.setSchedule_run] at hrunning
      simp [hrunning]
    · rw [State.setSchedule_run] at hwait
      have hpressed : s.keyPressed k = true := (State.selectKey_eq_some _ hk).1
      exact ⟨fun _ hrun => by simp [hwait] at hrun, fun _ _ => .inr (.inl ⟨rfl, k, hpressed⟩)⟩

end Sys2Proof.Machine
end

section
/-! The words the statements write out field by field, and the frame of a chain of setters. -/

namespace Sys2Proof.Machine

/-! A word by format is its pattern and its operands' fields (30_encoding.md R112, R120). -/

theorem wordA_eq_pattern_add (h : Nat) (nnn : Addr) : wordA h nnn = BitVec.ofNat 16 (h * 4096) + putNnn nnn := by
  rw [wordA, BitVec.ofNat_add, BitVec.ofNat_toNat, putNnn]

theorem wordXNN_eq_pattern_add (h : Nat) (x : Reg) (nn : Byte) :
    wordXNN h x nn.toNat = BitVec.ofNat 16 (h * 4096) + putX x + putNn nn := by
  rw [wordXNN, BitVec.ofNat_add, BitVec.ofNat_add, BitVec.ofNat_toNat, putX, putNn]

theorem wordXYN_eq_pattern_add (h : Nat) (x y : Reg) (low : Nat) :
    wordXYN h x y low = BitVec.ofNat 16 (h * 4096 + low) + putX x + putY y := by
  rw [wordXYN, putX, putY, ← BitVec.ofNat_add, ← BitVec.ofNat_add]
  congr 1
  omega

/-- The word of a well-formed instruction decodes to it, however the word is written. -/
theorem decode_of_encode_eq {i : Instr} {op : Word} (hop : op = encode i) (hwf : i.wf = true) : decode op = .instr i :=
  hop ▸ decodeOfEncodeIsIdentity i hwf

theorem toNat_wordXYN {h low : Nat} (x y : Reg) (hh : h < 16) (hlow : low < 16) :
    (wordXYN h x y low).toNat = h * 4096 + (x.val * 256 + y.val * 16 + low) := by
  have := x.isLt
  have := y.isLt
  rw [wordXYN, BitVec.toNat_ofNat]
  omega

theorem h_wordXYN {h low : Nat} (x y : Reg) (hh : h < 16) (hlow : low < 16) : Word.h (wordXYN h x y low) = h :=
  Laws.RoundTrip.high_nibble (toNat_wordXYN x y hh hlow) (by omega)

theorem val_n_wordXYN {h low : Nat} (x y : Reg) (hh : h < 16) (hlow : low < 16) :
    (Word.n (wordXYN h x y low)).val = low := by
  simp only [Word.n, toNat_wordXYN x y hh hlow]
  omega

/-! A setter of a part that the frame leaves open keeps the frame. -/

variable {changed : List Part} {s t : State}

theorem FrameExcept.refl (changed : List Part) (s : State) : FrameExcept changed s s := fun p _ => by
  cases p with
  | v => exact fun _ => rfl
  | mem => exact fun _ => rfl
  | _ => rfl

theorem FrameExcept.setPc (h : FrameExcept changed s t) (w : Word) (hp : .pc ∈ changed := by decide) :
    FrameExcept changed s (t.setPc w) := fun p hout => by
  cases p with
  | pc => exact absurd hp hout
  | _ => exact h _ hout

theorem FrameExcept.setSp (h : FrameExcept changed s t) (n : Fin 17) (hp : .sp ∈ changed := by decide) :
    FrameExcept changed s (t.setSp n) := fun p hout => by
  cases p with
  | sp => exact absurd hp hout
  | _ => exact h _ hout

theorem FrameExcept.setStack (h : FrameExcept changed s t) (x : Vector Word 16) (hp : .stack ∈ changed := by decide) :
    FrameExcept changed s (t.setStack x) := fun p hout => by
  cases p with
  | stack => exact absurd hp hout
  | _ => exact h _ hout

/-- The advance moves `pc` only (R142). -/
theorem advance_frame (s : State) (hp : .pc ∈ changed := by decide) : FrameExcept changed s s.advance :=
  (FrameExcept.refl changed s).setPc _ hp

end Sys2Proof.Machine
end

section
/-! Control flow (41_flow.md): the jumps, the call and its return, and the skips on a register. -/

namespace Sys2Proof.Machine

/-! Jumps. -/

/-- A jump writes `pc` and nothing else (R161, R167). -/
theorem setPc_advance_frame (s : State) (w : Word) : FrameExcept [.pc] s (s.advance.setPc w) :=
  (advance_frame s).setPc w

/-- A 12-bit address and a byte add up without a carry out of 16 bits (R167). -/
theorem toNat_jumpV0Target (nnn : Addr) (v0 : Byte) : (jumpV0Target nnn v0).toNat = nnn.toNat + v0.toNat := by
  have := nnn.isLt
  have := v0.isLt
  rw [jumpV0Target, BitVec.toNat_add, toNat_zext_addr, toNat_zext_byte]
  omega

/-- Settles O17: the meaning is one write of `pc`. -/
theorem jumpResult : Obligations.JumpResult := fun s nnn =>
  ⟨decode_of_encode_eq (wordA_eq_pattern_add 0x1 nnn) rfl,
    _, rfl, toNat_zext_addr nnn, setPc_advance_frame s _⟩

/-- Settles O18: the sum fits 16 bits. -/
theorem computedJumpResult : Obligations.ComputedJumpResult := fun s nnn =>
  ⟨decode_of_encode_eq (wordA_eq_pattern_add 0xB nnn) rfl,
    _, rfl, toNat_jumpV0Target nnn (s.readV 0), setPc_advance_frame s _⟩

/-! CALL and RET. -/

/-- Settles O19: a push below 16 entries, and the fault on a full stack. -/
theorem callResult : Obligations.CallResult := fun s nnn => by
  have hword : wordA 0x2 nnn = encode (.call nnn) := wordA_eq_pattern_add 0x2 nnn
  refine ⟨decode_of_encode_eq hword rfl, fun hlt => ?_, fun hfull => ?_⟩
  · have hentry (k : Nat) (hk : k < 16) : (s.stack.set s.sp.val (s.pc + 2#16))[k] =
        if k = s.sp.val then s.pc + 2#16 else s.stack[k] := by
      simp only [Vector.getElem_set, eq_comm]
    exact ⟨_, execCall_of_lt nnn hlt, toNat_zext_addr nnn, rfl, hentry,
      (((advance_frame s).setStack _).setSp _).setPc _⟩
  · exact ⟨_, execCall_of_full nnn hfull, hword ▸ takesFault_raise s .stackOverflow _⟩

/-- Settles O20: a pop of the topmost entry, and the fault on an empty stack. -/
theorem returnResult : Obligations.ReturnResult := fun s => by
  refine ⟨decode_of_encode_eq rfl rfl, fun k hk hsp => ?_, fun hempty => ?_⟩
  · have htop : s.sp.val - 1 = k := by omega
    exact ⟨_, execRet_of_pos (by omega), by simp only [State.setPc_pc, htop], htop,
      ((advance_frame s).setSp _).setPc _⟩
  · exact ⟨_, execRet_of_empty hempty, takesFault_raise s .stackUnderflow _⟩

/-- Settles O21: the RET pops the entry that the CALL pushed at `SP`, and neither touches an entry below it. -/
theorem returnUndoesCall : Obligations.ReturnUndoesCall := fun s t u nnn hlt hcall hstack hsp => by
  obtain ⟨t', hcall', -, hsp', hpushed, -⟩ := (callResult s nnn).2.1 hlt
  obtain rfl : t = t' := Host.Outcome.next.inj (hcall.symm.trans hcall')
  obtain ⟨w, hret, hpc, hwsp, hframe⟩ := (returnResult u).2.1 s.sp.val hlt (hsp ▸ hsp')
  have hkept : w.stack = u.stack := hframe .stack (by decide)
  refine ⟨w, hret, ?_, Fin.ext hwsp, fun k hk hbelow => ?_⟩
  · simp only [hpc, hstack, hpushed, if_pos]
  · simp only [hkept, hstack, hpushed, if_neg hbelow.ne]

/-! Skips. -/

/-- The advance and a skip are one write of `pc`, by two words or by one (R142). -/
theorem State.advance_skipIf (s : State) (c : Bool) :
    s.advance.skipIf c = s.setPc (if c then s.pc + 4#16 else s.pc + 2#16) := by
  cases c with
  | false => rfl
  | true => exact congrArg s.setPc (BitVec.add_assoc s.pc 2#16 2#16)

theorem advance_skipIf_frame (s : State) (c : Bool) : FrameExcept [.pc] s (s.advance.skipIf c) := by
  rw [State.advance_skipIf]
  exact (FrameExcept.refl _ s).setPc _

variable {i : Instr} {s : State} {a b : Byte}

/-- An instruction that skips on two equal bytes (R163, R165). -/
theorem exec_skip_of_eq (h : exec i s = .next (s.advance.skipIf (a == b))) :
    ∃ t, exec i s = .next t ∧ t.pc = (if a = b then s.pc + 4#16 else s.pc + 2#16) ∧ FrameExcept [.pc] s t :=
  ⟨_, h, by simp [State.advance_skipIf], advance_skipIf_frame s _⟩

/-- An instruction that skips on two different bytes (R164, R166). -/
theorem exec_skip_of_ne (h : exec i s = .next (s.advance.skipIf (a != b))) :
    ∃ t, exec i s = .next t ∧ t.pc = (if a = b then s.pc + 2#16 else s.pc + 4#16) ∧ FrameExcept [.pc] s t :=
  ⟨_, h, by simp [State.advance_skipIf], advance_skipIf_frame s _⟩

/-- Settles O22: SE skips on equal bytes, SNE on different ones. -/
theorem skipOnImmediateResults : Obligations.SkipOnImmediateResults := fun _ x nn =>
  ⟨⟨decode_of_encode_eq (wordXNN_eq_pattern_add 0x3 x nn) rfl, exec_skip_of_eq rfl⟩,
    ⟨decode_of_encode_eq (wordXNN_eq_pattern_add 0x4 x nn) rfl, exec_skip_of_ne rfl⟩⟩

/-- A word of a register-skip group with a low nibble above 0 matches no row (R116). -/
theorem decode_wordXYN_unmapped {h n : Nat} (x y : Reg) (hgroup : h = 0x5 ∨ h = 0x9) (hpos : 1 ≤ n) (hlt : n < 16) :
    decode (wordXYN h x y n) = .unmapped (wordXYN h x y n) := by
  have hnibble := h_wordXYN x y (h := h) (by omega) hlt
  have hn : ¬ (Word.n (wordXYN h x y n)).val = 0 := by
    rw [val_n_wordXYN x y (by omega) hlt]
    omega
  obtain rfl | rfl := hgroup
  · rw [decode_h5 hnibble, if_neg hn]
  · rw [decode_h9 hnibble, if_neg hn]

/-- Settles O23: the same two skips on two registers, and the low nibble is part of the selector. -/
theorem skipOnRegisterResults : Obligations.SkipOnRegisterResults := fun _ x y =>
  ⟨⟨decode_of_encode_eq (wordXYN_eq_pattern_add 0x5 x y 0) rfl, exec_skip_of_eq rfl⟩,
    ⟨decode_of_encode_eq (wordXYN_eq_pattern_add 0x9 x y 0) rfl, exec_skip_of_ne rfl⟩,
    fun _ hpos hlt => ⟨decode_wordXYN_unmapped x y (.inl rfl) hpos hlt, decode_wordXYN_unmapped x y (.inr rfl) hpos hlt⟩⟩

end Sys2Proof.Machine
end

section
/-! Register moves, arithmetic, logic, shifts and random (42_register_alu.md). An instruction of this family is the advance
and one write, of a register or of a result and its flag; what is left of each is its value, as a number or bit by bit. -/

namespace Sys2Proof.Machine

/-- A word of format X is its selector and the field `x` (30_encoding.md R112, R120). -/
theorem wordXNN_eq_selector_add (h : Nat) (x : Reg) (low : Nat) :
    wordXNN h x low = BitVec.ofNat 16 (h * 4096 + low) + putX x := by
  rw [wordXNN, putX, ← BitVec.ofNat_add, Nat.add_right_comm]

/-! What the two writes change and keep (R181). -/

variable {changed : List Part} {s t : State}

theorem FrameExcept.setV (h : FrameExcept changed s t) (v : Vector Byte 16) (hp : .v ∈ changed := by decide) :
    FrameExcept changed s (t.setV v) := fun p hout => by
  cases p with
  | v => exact absurd hp hout
  | _ => exact h _ hout

theorem FrameExcept.setDraws (h : FrameExcept changed s t) (n : Nat) (hp : .draws ∈ changed := by decide) :
    FrameExcept changed s (t.setDraws n) := fun p hout => by
  cases p with
  | draws => exact absurd hp hout
  | _ => exact h _ hout

theorem SetsRegister.readV_same {x : Reg} {b : Byte} (h : SetsRegister x b s t) : t.readV x = b :=
  (h x).trans (if_pos rfl)

/-- The effect of an instruction that writes one register and no flag. -/
theorem writeV_advance (s : State) (x : Reg) (b : Byte) :
    SetsRegister x b s (s.advance.writeV x b) ∧ (s.advance.writeV x b).pc = s.pc + 2#16 ∧
      FrameExcept [.v, .pc] s (s.advance.writeV x b) :=
  ⟨fun r => State.readV_writeV s.advance x r b, rfl, (advance_frame s).setV _⟩

/-- The effect of an instruction that writes a result and then a flag. -/
theorem writeResultFlag_advance (s : State) (x : Reg) (b : Byte) {c flag : Byte} (hc : c = flag) :
    SetsRegisterAndFlag x b flag s (s.advance.writeResultFlag x b c) ∧
      (s.advance.writeResultFlag x b c).pc = s.pc + 2#16 ∧
      FrameExcept [.v, .pc] s (s.advance.writeResultFlag x b c) :=
  ⟨fun r => hc ▸ State.readV_writeResultFlag s.advance x r b c, rfl, ((advance_frame s).setV _).setV _⟩

/-! The results and the flags of Machine/Flags.lean, as numbers (R188 to R192). -/

theorem toNat_flagByte (c : Bool) : (flagByte c).toNat = c.toNat := by
  cases c with
  | false => rfl
  | true => rfl

theorem flagByte_decide (p : Prop) [Decidable p] : flagByte (decide p) = if p then 1#8 else 0#8 := by
  simp only [flagByte, decide_eq_true_eq]

theorem carryFlag_eq (a b : Byte) : carryFlag a b = if a.toNat + b.toNat > 255 then 1#8 else 0#8 := flagByte_decide _

theorem noBorrowFlag_eq (a b : Byte) : noBorrowFlag a b = if a.toNat ≥ b.toNat then 1#8 else 0#8 := flagByte_decide _

/-- The difference on integers, reduced mod 256 (R189, R195). -/
theorem int_toNat_subResult (a b : Byte) : ((subResult a b).toNat : Int) = ((a.toNat : Int) - b.toNat) % 256 := by
  rw [subResult, BitVec.toNat_ofInt, Int.toNat_of_nonneg (Int.emod_nonneg _ (by decide))]
  rfl

theorem toNat_shrResult (a : Byte) : (shrResult a).toNat = a.toNat / 2 := by
  rw [shrResult, BitVec.toNat_ushiftRight, Nat.shiftRight_eq_div_pow, Nat.pow_one]

theorem toNat_shrFlag (a : Byte) : (shrFlag a).toNat = a.toNat % 2 := by
  rw [shrFlag, toNat_flagByte, BitVec.getLsbD, Nat.toNat_testBit, Nat.pow_zero, Nat.div_one]

theorem toNat_shlResult (a : Byte) : (shlResult a).toNat = a.toNat * 2 % 256 := by
  rw [shlResult, BitVec.toNat_shiftLeft, Nat.shiftLeft_eq, Nat.pow_one]

/-- Bit 7 of a byte is its quotient by 128. -/
theorem toNat_shlFlag (a : Byte) : (shlFlag a).toNat = a.toNat / 128 := by
  have := a.isLt
  rw [shlFlag, toNat_flagByte, BitVec.getLsbD, Nat.toNat_testBit]
  omega

/-! The instructions. -/

/-- Settles O11: each of the three loads is one register write. -/
theorem registerLoadResults : Obligations.RegisterLoadResults := fun s x y nn =>
  ⟨⟨decode_of_encode_eq (wordXNN_eq_pattern_add 0x6 x nn) rfl, _, rfl, writeV_advance s x nn⟩,
    ⟨decode_of_encode_eq (wordXYN_eq_pattern_add 0x8 x y 0x0) rfl, _, rfl, writeV_advance s x (s.readV y)⟩,
    ⟨decode_of_encode_eq (wordXNN_eq_selector_add 0xF x 0x07) rfl, _, rfl, writeV_advance s x s.dt⟩⟩

/-- Settles O12: the sum, narrowed to a byte, goes to one register. -/
theorem addImmediateResult : Obligations.AddImmediateResult := fun s x nn =>
  ⟨decode_of_encode_eq (wordXNN_eq_pattern_add 0x7 x nn) rfl,
    _, _, rfl, toNat_addResult (s.readV x) nn, writeV_advance s x _⟩

/-- Settles O13: the three operations act on each bit by itself. -/
theorem logicResults : Obligations.LogicResults := fun s x y =>
  ⟨⟨decode_of_encode_eq (wordXYN_eq_pattern_add 0x8 x y 0x1) rfl,
      _, _, rfl, fun _ => BitVec.getLsbD_or, writeV_advance s x _⟩,
    ⟨decode_of_encode_eq (wordXYN_eq_pattern_add 0x8 x y 0x2) rfl,
      _, _, rfl, fun _ => BitVec.getLsbD_and, writeV_advance s x _⟩,
    ⟨decode_of_encode_eq (wordXYN_eq_pattern_add 0x8 x y 0x3) rfl,
      _, _, rfl, fun _ => BitVec.getLsbD_xor, writeV_advance s x _⟩⟩

/-- Settles O14: the result as a number, and the flag as the comparison it is computed from. -/
theorem addAndSubtractResults : Obligations.AddAndSubtractResults := fun s x y =>
  ⟨⟨decode_of_encode_eq (wordXYN_eq_pattern_add 0x8 x y 0x4) rfl,
      _, _, rfl, toNat_addResult _ _, writeResultFlag_advance s x _ (carryFlag_eq _ _)⟩,
    ⟨decode_of_encode_eq (wordXYN_eq_pattern_add 0x8 x y 0x5) rfl,
      _, _, rfl, int_toNat_subResult _ _, writeResultFlag_advance s x _ (noBorrowFlag_eq _ _)⟩,
    ⟨decode_of_encode_eq (wordXYN_eq_pattern_add 0x8 x y 0x7) rfl,
      _, _, rfl, int_toNat_subResult _ _, writeResultFlag_advance s x _ (noBorrowFlag_eq _ _)⟩⟩

/-- Settles O15: a shift by one is a quotient or a product by 2, and the bit shifted out its remainder or its overflow. -/
theorem shiftResults : Obligations.ShiftResults := fun s x y =>
  ⟨⟨decode_of_encode_eq (wordXYN_eq_pattern_add 0x8 x y 0x6) rfl,
      _, _, _, rfl, toNat_shrResult _, toNat_shrFlag _, writeResultFlag_advance s x _ rfl⟩,
    ⟨decode_of_encode_eq (wordXYN_eq_pattern_add 0x8 x y 0xE) rfl,
      _, _, _, rfl, toNat_shlResult _, toNat_shlFlag _, writeResultFlag_advance s x _ rfl⟩⟩

/-- Settles O16: one draw and one register write, whatever the byte (`randomResult` itself is the model's masked byte). -/
theorem randomResult_for_every_draw : Obligations.RandomResult := fun s x nn => by
  have hset : SetsRegister x (Config.randomByte s.draws &&& nn) s
      (s.advance.randomByte.2.writeV x (randomResult s.advance.randomByte.1 nn)) :=
    fun r => State.readV_writeV s.advance.randomByte.2 x r _
  refine ⟨_, rfl, hset, fun k hk => ?_, rfl, rfl, ((advance_frame s).setDraws _).setV _⟩
  rw [hset.readV_same, BitVec.getLsbD_and, hk, Bool.and_false]

end Sys2Proof.Machine
end

section
/-! The index register and the memory transfers (43_index_memory.md). An instruction of this family is the advance and one
write: of `I` (ADD I writes VF after it), of a string of bytes at `I`, or of the registers loaded from there. -/

namespace Sys2Proof.Machine

/-! What the writes of `I` and of memory change and keep. -/

variable {changed : List Part} {s t : State}

theorem FrameExcept.setIndex (h : FrameExcept changed s t) (w : Word) (hp : .index ∈ changed := by decide) :
    FrameExcept changed s (t.setIndex w) := fun p hout => by
  cases p with
  | index => exact absurd hp hout
  | _ => exact h _ hout

theorem FrameExcept.setMem (h : FrameExcept changed s t) (m : Memory) (hp : .mem ∈ changed := by decide) :
    FrameExcept changed s (t.setMem m) := fun p hout => by
  cases p with
  | mem => exact absurd hp hout
  | _ => exact h _ hout

/-- A load of `I` writes `I` and no other part (R211, R213). -/
theorem setIndex_advance_frame (s : State) (w : Word) : FrameExcept [.index, .pc] s (s.advance.setIndex w) :=
  (advance_frame s).setIndex w

/-- A string of stores at `I` writes memory and no other part (R210). -/
theorem storeAtIndex_advance_frame (s : State) (bs : List Byte) : FrameExcept [.mem, .pc] s (s.advance.storeAtIndex bs) :=
  (advance_frame s).setMem _

theorem read_storeAtIndex_at (s : State) (bs : List Byte) {k : Nat} (hk : k < bs.length) (hlen : bs.length ≤ Config.memSize) :
    (s.storeAtIndex bs).mem.read (wrapAddr (s.index.toNat + k)) = bs[k] :=
  (Memory.read_wrapAddr _ _).trans (Memory.read_storeBytes_at bs s.mem _ k hk hlen)

theorem read_storeAtIndex_off (s : State) (bs : List Byte) {a : Nat}
    (h : ∀ k < bs.length, wrapAddr a ≠ wrapAddr (s.index.toNat + k)) : (s.storeAtIndex bs).mem.read a = s.mem.read a :=
  Memory.read_storeBytes_off bs s.mem _ a h

/-! The two register transfers keep `I` (R217; the spec's decision D12). -/

theorem exec_ldMemVx (x : Reg) (s : State) :
    exec (.ldMemVx x) s = .next (s.advance.storeAtIndex (s.registersUpTo x)) := rfl

theorem exec_ldVxMem (x : Reg) (s : State) : exec (.ldVxMem x) s = .next (s.advance.loadRegisters s.index x) := rfl

/-! The flag of ADD I and the decimal digits, as numbers. -/

/-- VF says whether the sum exceeded 0x0FFF (R212). -/
theorem addIndexFlag_eq (w : Word) (b : Byte) :
    addIndexFlag w b = if w.toNat + b.toNat > 0x0FFF then 1#8 else 0#8 := flagByte_decide _

/-- The hundreds of a byte, at most 2, fit a byte. -/
theorem toNat_hundreds (b : Byte) : (BitVec.ofNat 8 (b.toNat / 100)).toNat = b.toNat / 100 :=
  Nat.mod_eq_of_lt ((Nat.div_le_self _ _).trans_lt b.isLt)

/-- A decimal digit fits a byte. -/
theorem toNat_digit (n : Nat) : (BitVec.ofNat 8 (n % 10)).toNat = n % 10 :=
  Nat.mod_eq_of_lt ((Nat.mod_lt n (by decide)).trans (by decide))

/-! The instructions. -/

/-- Settles O26: one write of `I`. -/
theorem loadIndexResult : Obligations.LoadIndexResult := fun s nnn =>
  ⟨decode_of_encode_eq (wordA_eq_pattern_add 0xA nnn) rfl,
    _, rfl, toNat_zext_addr nnn, rfl, setIndex_advance_frame s _⟩

/-- Settles O27: ADD I writes the masked sum and then VF, and the glyph's address of a whole byte fits `I`. -/
theorem indexArithmeticResults : Obligations.IndexArithmeticResults := fun s x => by
  have hflag : SetsRegister regF (if s.index.toNat + (s.readV x).toNat > 0x0FFF then 1#8 else 0#8) s
      ((s.advance.setIndex (addIndexResult s.index (s.readV x))).writeVF (addIndexFlag s.index (s.readV x))) :=
    addIndexFlag_eq s.index (s.readV x) ▸ fun r => State.readV_writeVF _ r _
  exact
    ⟨⟨decode_of_encode_eq (wordXNN_eq_selector_add 0xF x 0x1E) rfl,
        _, rfl, toNat_addIndexResult _ _, hflag, rfl, ((advance_frame s).setIndex _).setV _⟩,
      ⟨decode_of_encode_eq (wordXNN_eq_selector_add 0xF x 0x29) rfl,
        _, rfl, toNat_glyphAddress _, rfl, setIndex_advance_frame s _⟩⟩

/-- Settles O28: the three digits are a string of stores at `I`. -/
theorem bcdStoreResult : Obligations.BcdStoreResult := fun s x => by
  have hat (k : Nat) (hk : k < 3) : (s.advance.storeAtIndex (bcdDigits (s.readV x))).mem.read
      (wrapAddr (s.index.toNat + k)) = (bcdDigits (s.readV x))[k] :=
    read_storeAtIndex_at s.advance (bcdDigits (s.readV x)) hk (by simp [Config.memSize])
  exact ⟨decode_of_encode_eq (wordXNN_eq_selector_add 0xF x 0x33) rfl, _, rfl,
    hat 0 (by decide) ▸ toNat_hundreds (s.readV x),
    hat 1 (by decide) ▸ toNat_digit ((s.readV x).toNat / 10),
    hat 2 (by decide) ▸ toNat_digit (s.readV x).toNat,
    fun a => read_storeAtIndex_off s.advance (bcdDigits (s.readV x)), rfl, storeAtIndex_advance_frame s _⟩

/-- Settles O29: the registers up to `x` are a string of stores at `I`. -/
theorem registerDumpResult : Obligations.RegisterDumpResult := fun s x => by
  refine ⟨decode_of_encode_eq (wordXNN_eq_selector_add 0xF x 0x55) rfl, _, exec_ldMemVx x s, fun r hr => ?_,
    fun a hout => ?_, rfl, storeAtIndex_advance_frame s _⟩
  · rw [Memory.read_wrapAddr]
    exact read_of_execLdMemVx (exec_ldMemVx x s) r.isLt hr
  · refine read_storeAtIndex_off s.advance _ fun k hk => hout k ?_
    rw [State.length_registersUpTo] at hk
    exact Nat.le_of_lt_succ hk

/-- Settles O30: one write of the registers, those up to `x` read from memory. -/
theorem registerLoadFromMemoryResult : Obligations.RegisterLoadFromMemoryResult := fun s x => by
  refine ⟨decode_of_encode_eq (wordXNN_eq_selector_add 0xF x 0x65) rfl, _, exec_ldVxMem x s, fun r => ?_, rfl,
    (advance_frame s).setV _⟩
  rw [Memory.read_wrapAddr]
  exact State.readV_loadRegisters s.advance s.index x r

/-- Settles O31: the load reads the addresses that the dump wrote, as `I` is where it was. -/
theorem loadRestoresDump : Obligations.LoadRestoresDump := fun s t u x hdump hmem hindex => by
  obtain ⟨t', hdump', hstored, -, -, hframe⟩ := (registerDumpResult s x).2
  obtain rfl : t = t' := Host.Outcome.next.inj (hdump.symm.trans hdump')
  have hkept : t.index = s.index := hframe .index (by decide)
  obtain ⟨w, hload, hloaded, -⟩ := (registerLoadFromMemoryResult u x).2
  refine ⟨w, hload, fun r hr => ?_⟩
  calc w.readV r
      _ = u.mem.read (wrapAddr (u.index.toNat + r.val)) := by rw [hloaded, if_pos hr]
      _ = t.mem.read (wrapAddr (s.index.toNat + r.val)) := by rw [hmem, hindex, hkept]
      _ = s.readV r := hstored r hr

end Sys2Proof.Machine
end

section
/-! Clear and sprite draw (44_display.md). A loop of DRW is a drawing operation with a mask, the pixels it inverts: it XORs its
mask onto the framebuffer and reports a lit pixel that met it. Such operations compose as long as no pixel is met twice, and
no two columns of a sprite, nor two rows, fall on one pixel. -/

namespace Sys2Proof.Machine

/-- One bit for each pixel. -/
abbrev Mask := Fin 64 → Fin 32 → Bool

/-- The operation on a framebuffer and `hit` inverts the pixels of `mask`, and raises `hit` when one of them was lit. -/
structure DrawsMask (mask : Mask) (draw : Framebuffer × Bool → Framebuffer × Bool) : Prop where
  pixel : ∀ acc px py, (draw acc).1.pixel px py = (acc.1.pixel px py ^^ mask px py)
  hit : ∀ acc, (draw acc).2 = true ↔ acc.2 = true ∨ ∃ px py, acc.1.pixel px py = true ∧ mask px py = true

/-- The union of the first `n` of a sequence of masks. -/
def unionBelow (masks : Nat → Mask) (n : Nat) : Mask := fun px py => (List.range n).any fun k => masks k px py

theorem unionBelow_eq_true (masks : Nat → Mask) (n : Nat) (px : Fin 64) (py : Fin 32) :
    unionBelow masks n px py = true ↔ ∃ k < n, masks k px py = true := by
  simp [unionBelow]

theorem unionBelow_succ (masks : Nat → Mask) (n : Nat) (px : Fin 64) (py : Fin 32) :
    unionBelow masks (n + 1) px py = (unionBelow masks n px py || masks n px py) := by
  simp [unionBelow, List.range_succ]

namespace DrawsMask

variable {mask mask' : Mask} {draw draw' : Framebuffer × Bool → Framebuffer × Bool}

theorem congr (h : DrawsMask mask draw) (heq : ∀ px py, mask px py = mask' px py) : DrawsMask mask' draw :=
  (funext₂ heq : mask = mask') ▸ h

/-- Drawing nothing. -/
theorem nothing : DrawsMask (fun _ _ => false) id := ⟨by simp, by simp⟩

/-- One drawing after another, when no pixel is inverted by both: the second finds its pixels as they were before the first. -/
theorem comp (h : DrawsMask mask draw) (h' : DrawsMask mask' draw')
    (hdisjoint : ∀ px py, mask px py = true → mask' px py = false) :
    DrawsMask (fun px py => mask px py || mask' px py) (draw' ∘ draw) where
  pixel acc px py := by
    have hor : (mask px py ^^ mask' px py) = (mask px py || mask' px py) := by
      cases hm : mask px py with
      | false => simp
      | true => simp [hdisjoint px py hm]
    simp only [Function.comp_apply, h'.pixel, h.pixel, Bool.xor_assoc, hor]
  hit acc := by
    have huntouched : ∀ px py, ((draw acc).1.pixel px py = true ∧ mask' px py = true) ↔
        (acc.1.pixel px py = true ∧ mask' px py = true) := fun px py => by
      rw [h.pixel]
      cases hm : mask px py with
      | false => simp
      | true => simp [hdisjoint px py hm]
    simp only [Function.comp_apply, h'.hit, h.hit, huntouched, Bool.or_eq_true, and_or_left, exists_or, or_assoc]

/-- A loop over drawings of which no two invert one pixel inverts the pixels of all of them. -/
theorem foldl_range {masks : Nat → Mask} {draws : Nat → Framebuffer × Bool → Framebuffer × Bool}
    (h : ∀ k, DrawsMask (masks k) (draws k))
    (hdisjoint : ∀ j k px py, masks j px py = true → masks k px py = true → j = k) (n : Nat) :
    DrawsMask (unionBelow masks n) fun acc => (List.range n).foldl (fun acc k => draws k acc) acc := by
  induction n with
  | zero => exact nothing
  | succ n ih =>
    have hnew : ∀ px py, unionBelow masks n px py = true → masks n px py = false := fun px py hbelow => by
      obtain ⟨k, hlt, hk⟩ := (unionBelow_eq_true masks n px py).1 hbelow
      exact Bool.eq_false_iff.2 fun hn => hlt.ne (hdisjoint k n px py hk hn)
    simp only [List.range_succ, List.foldl_append, List.foldl_cons, List.foldl_nil]
    exact (ih.comp (h n) hnew).congr fun px py => (unionBelow_succ masks n px py).symm

end DrawsMask

/-! The masks of a column, of a row and of a sprite (R231, R233). -/

/-- The pixel of one column of a row, if its bit is 1. -/
def bitMask (row : Byte) (ox y c : Nat) : Mask := fun px py =>
  decide (px.val = ox + c ∧ py.val = y) && spriteBit row c

theorem bitMask_eq_true {row : Byte} {ox y c : Nat} {px : Fin 64} {py : Fin 32} :
    bitMask row ox y c px py = true ↔ px.val = ox + c ∧ py.val = y ∧ spriteBit row c = true := by
  simp [bitMask, and_assoc]

/-- The pixels of one row: its eight columns. -/
def rowMask (row : Byte) (ox y : Nat) : Mask := unionBelow (bitMask row ox y) 8

theorem rowMask_eq_true {row : Byte} {ox y : Nat} {px : Fin 64} {py : Fin 32} :
    rowMask row ox y px py = true ↔
      ox ≤ px.val ∧ px.val < ox + 8 ∧ py.val = y ∧ row.getLsbD (7 - (px.val - ox)) = true := by
  simp only [rowMask, unionBelow_eq_true, bitMask_eq_true, spriteBit]
  constructor
  · rintro ⟨c, hc, hx, hy, hbit⟩
    have hcol : px.val - ox = c := by omega
    exact ⟨by omega, by omega, hy, hcol ▸ hbit⟩
  · rintro ⟨hle, hlt, hy, hbit⟩
    exact ⟨px.val - ox, by omega, by omega, hy, hbit⟩

/-- A sprite's pixels are those of its rows. -/
theorem unionBelow_rowMask (m : Memory) (base : Word) (ox oy n : Nat) (px : Fin 64) (py : Fin 32) :
    unionBelow (fun r => rowMask (m.read (base.toNat + r)) ox (oy + r)) n px py = spritePixel m base ox oy n px py := by
  rw [Bool.eq_iff_iff, unionBelow_eq_true]
  simp only [rowMask_eq_true, spritePixel, Bool.and_eq_true, decide_eq_true_eq, and_assoc]
  constructor
  · rintro ⟨r, hr, hle, hlt, hy, hbit⟩
    have hrow : py.val - oy = r := by omega
    exact ⟨hle, hlt, by omega, by omega, hrow ▸ hbit⟩
  · rintro ⟨hle, hlt, hyle, hylt, hbit⟩
    exact ⟨py.val - oy, by omega, hle, hlt, by omega, hbit⟩

/-! DRW's loops draw their masks. -/

theorem drawBit_draws (row : Byte) (ox y c : Nat) : DrawsMask (bitMask row ox y c) (drawBit row ox y c) where
  pixel := drawBit_pixel row ox y c
  hit acc := by
    simp only [drawBit_hit, bitMask_eq_true]
    exact or_congr Iff.rfl
      ⟨fun ⟨hbit, px, py, hx, hy, hlit⟩ => ⟨px, py, hlit, hx, hy, hbit⟩,
        fun ⟨px, py, hlit, hx, hy, hbit⟩ => ⟨hbit, px, py, hx, hy, hlit⟩⟩

theorem drawRow_draws (row : Byte) (ox y : Nat) : DrawsMask (rowMask row ox y) (drawRow row ox y) :=
  .foldl_range (drawBit_draws row ox y) (fun j k px py hj hk => by
    have hxj := (bitMask_eq_true.1 hj).1
    have hxk := (bitMask_eq_true.1 hk).1
    omega) 8

theorem drawRows_draws (m : Memory) (base : Word) (ox oy n : Nat) :
    DrawsMask (spritePixel m base ox oy n) (drawRows m base ox oy n) := by
  refine DrawsMask.congr (.foldl_range (fun r => drawRow_draws _ ox (oy + r)) (fun j k px py hj hk => ?_) n)
    (unionBelow_rowMask m base ox oy n)
  obtain ⟨-, -, hyj, -⟩ := rowMask_eq_true.1 hj
  obtain ⟨-, -, hyk, -⟩ := rowMask_eq_true.1 hk
  omega

/-! The framebuffer, and the sprite that DRW draws, are given by their pixels. -/

theorem Framebuffer.ext_pixel {fb fb' : Framebuffer} (h : ∀ px py, fb.pixel px py = fb'.pixel px py) : fb = fb' :=
  Vector.ext fun y hy => BitVec.eq_of_getLsbD_eq fun x hx => h ⟨x, hx⟩ ⟨y, hy⟩

/-- The sprite depends on the bytes read only, not on how memory is held. -/
theorem spritePixel_congr {m m' : Memory} (h : ∀ a, m'.read a = m.read a) (base : Word) (ox oy n : Nat) :
    spritePixel m' base ox oy n = spritePixel m base ox oy n := by
  unfold spritePixel
  simp only [h]

variable {changed : List Part} {s t : State}

theorem FrameExcept.setFb (h : FrameExcept changed s t) (f : Framebuffer) (hp : .fb ∈ changed := by decide) :
    FrameExcept changed s (t.setFb f) := fun p hout => by
  cases p with
  | fb => exact absurd hp hout
  | _ => exact h _ hout

/-! The instructions. -/

/-- Settles O34: the blank framebuffer is the one write. -/
theorem clearScreenResult : Obligations.ClearScreenResult := fun s =>
  ⟨decode_of_encode_eq (i := .cls) rfl rfl, _, rfl, Framebuffer.pixel_blank, rfl, (advance_frame s).setFb _⟩

/-- Settles O35: the loops draw the sprite's mask onto the framebuffer with `hit` 0, and VF is written last. -/
theorem drawIsPixelwiseXor : Obligations.DrawIsPixelwiseXor := fun s x y n => by
  have hdraws := drawRows_draws s.mem s.index ((s.readV x).toNat % 64) ((s.readV y).toNat % 32) n.val
  have hhit := hdraws.hit (s.fb, false)
  simp only [Bool.false_eq_true, false_or] at hhit
  exact ⟨_, (s.drawn x y n).2, rfl, hdraws.pixel (s.fb, false), hhit,
    fun r => State.readV_writeVF _ r _, rfl, ((advance_frame s).setFb _).setV _⟩

/-- Settles O36: the second XOR undoes the first, and over a blank framebuffer the pixels lit in between are the sprite's. -/
theorem drawTwiceRestoresFramebuffer : Obligations.DrawTwiceRestoresFramebuffer := by
  intro s t u x y n hdraw hfb hmem hindex hx hy
  obtain ⟨t', -, hdraw', hpixel, -⟩ := drawIsPixelwiseXor s x y n
  obtain rfl : t = t' := Host.Outcome.next.inj (hdraw.symm.trans hdraw')
  obtain ⟨w, hit, hredraw, hrepixel, hhit, hflag, -⟩ := drawIsPixelwiseXor u x y n
  rw [hindex, hx, hy, spritePixel_congr hmem, hfb] at hrepixel hhit
  refine ⟨w, hredraw, Framebuffer.ext_pixel fun px py => ?_, fun hblank => ?_⟩
  · rw [hrepixel, hpixel, Bool.xor_assoc, Bool.xor_self, Bool.xor_false]
  · simp only [hblank, Framebuffer.pixel_blank, Bool.false_xor] at hpixel
    have hVF : w.readV regF = 1#8 ↔ hit = true := by
      rw [hflag.readV_same]
      cases hit with
      | false => decide
      | true => decide
    simp only [hVF, hhit, hpixel, and_self]

end Sys2Proof.Machine
end

section
/-! Keyboard and timers (45_keys_timers.md): the skips on a key, LD Vx, K and the wait it may start, and the timer sets. What the
branching meanings answer in each case stands in Laws/Exec.lean; what is left of each is the effect of that answer. -/

namespace Sys2Proof.Machine

/-! What the writes of `run` and of the timers change and keep. -/

variable {changed : List Part} {s t : State}

theorem FrameExcept.setRun (h : FrameExcept changed s t) (r : RunState) (hp : .run ∈ changed := by decide) :
    FrameExcept changed s (t.setRun r) := fun p hout => by
  cases p with
  | run => exact absurd hp hout
  | _ => exact h _ hout

theorem FrameExcept.setDt (h : FrameExcept changed s t) (b : Byte) (hp : .dt ∈ changed := by decide) :
    FrameExcept changed s (t.setDt b) := fun p hout => by
  cases p with
  | dt => exact absurd hp hout
  | _ => exact h _ hout

theorem FrameExcept.setSt (h : FrameExcept changed s t) (b : Byte) (hp : .st ∈ changed := by decide) :
    FrameExcept changed s (t.setSt b) := fun p hout => by
  cases p with
  | st => exact absurd hp hout
  | _ => exact h _ hout

/-! Keys. -/

theorem State.pc_advance_skipIf_eq (s : State) (c : Bool) :
    (s.advance.skipIf c).pc = if c = true then s.pc + 4#16 else s.pc + 2#16 :=
  congrArg State.pc (s.advance_skipIf c)

/-- A skip on a key that is up swaps the two branches of a skip on a pressed one (R251, R252). -/
theorem State.pc_advance_skipIf_not (s : State) (c : Bool) :
    (s.advance.skipIf !c).pc = if c = true then s.pc + 2#16 else s.pc + 4#16 := by
  cases c with
  | false => exact s.pc_advance_skipIf_eq true
  | true => exact s.pc_advance_skipIf_eq false

/-- With some key pressed, the key selected is the lowest-numbered pressed one (R254, R256). -/
theorem State.exists_selectKey_lowest (h : ∃ k, s.keyPressed k = true) :
    ∃ k, s.selectKey = some k ∧ s.keyPressed k = true ∧ ∀ j, j < k → s.keyPressed j = false := by
  obtain ⟨k, hk⟩ := s.selectKey_of_pressed h
  exact ⟨k, hk, s.selectKey_eq_some hk⟩

/-- Settles O37: a value 0..15 names its key and the skip depends on that key, and a value above 15 takes the fault. -/
theorem keySkipResults : Obligations.KeySkipResults := fun s x => by
  have hskp : wordXNN 0xE x 0x9E = encode (.skp x) := wordXNN_eq_selector_add 0xE x 0x9E
  have hsknp : wordXNN 0xE x 0xA1 = encode (.sknp x) := wordXNN_eq_selector_add 0xE x 0xA1
  refine ⟨⟨decode_of_encode_eq hskp rfl, fun k hk => ?_, fun hgt => ?_⟩,
    decode_of_encode_eq hsknp rfl, fun k hk => ?_, fun hgt => ?_⟩
  · exact ⟨_, execSkp_of_le k hk, s.pc_advance_skipIf_eq _, advance_skipIf_frame s _⟩
  · exact ⟨_, execSkp_of_gt hgt, hskp ▸ takesFault_raise s .keyRange _⟩
  · exact ⟨_, execSknp_of_le k hk, s.pc_advance_skipIf_not _, advance_skipIf_frame s _⟩
  · exact ⟨_, execSknp_of_gt hgt, hsknp ▸ takesFault_raise s .keyRange _⟩

/-- Settles O38: one register write of the key selected, or one write of `run` when none is. -/
theorem keyLoadOrWait : Obligations.KeyLoadOrWait := fun s x => by
  refine ⟨decode_of_encode_eq (wordXNN_eq_selector_add 0xF x 0x0A) rfl, fun hpressed => ?_, fun hnone => ?_⟩
  · obtain ⟨k, hk, hkey, hlowest⟩ := State.exists_selectKey_lowest hpressed
    exact ⟨_, k, execLdVxK_of_some x hk, hkey, hlowest, writeV_advance s x (keyByte k)⟩
  · exact ⟨_, execLdVxK_of_none x (s.selectKey_eq_none.2 hnone), rfl, rfl, (advance_frame s).setRun _⟩

/-- Settles O39: the core's step is the completion on the key selected, and with no key selected there is none. -/
theorem keyWaitCompletes : Obligations.KeyWaitCompletes := fun s x hidle hwait => by
  rw [step_of_idle hidle]
  refine ⟨fun hpressed => ?_, fun hnone => ?_⟩
  · obtain ⟨k, hk, hkey, hlowest⟩ := State.exists_selectKey_lowest hpressed
    exact ⟨_, k, State.coreStep_of_pressed hwait hk, hkey, hlowest, fun r => State.readV_writeV s x r (keyByte k), rfl,
      ((FrameExcept.refl _ s).setV _).setRun _⟩
  · have hcore := State.coreStep_of_unpressed hwait (s.selectKey_eq_none.2 hnone)
    exact ⟨hcore, by simp only [State.stepTransaction, hcore]⟩

/-! Timers. -/

/-- The sound is active exactly while `ST` is not 0 (R41, R260). -/
theorem State.soundActive_iff (s : State) : s.soundActive = true ↔ s.st.toNat ≠ 0 := by
  simp only [State.soundActive, bne_iff_ne, ne_eq, BitVec.toNat_eq, BitVec.toNat_ofNat, Nat.zero_mod]

/-- Settles O40: each is one write of a counter, and the sound follows `ST`. -/
theorem timerSetResults : Obligations.TimerSetResults := fun s x =>
  ⟨⟨decode_of_encode_eq (wordXNN_eq_selector_add 0xF x 0x15) rfl, _, rfl, rfl, rfl, (advance_frame s).setDt _⟩,
    ⟨decode_of_encode_eq (wordXNN_eq_selector_add 0xF x 0x18) rfl,
      _, rfl, rfl, (s.advance.setSt (s.readV x)).soundActive_iff, rfl, (advance_frame s).setSt _⟩⟩

end Sys2Proof.Machine
end

section
/-! Faults, timers and devices (60_exceptions.md): a fault record fits the state it stands in through every step, the timers move
by whole ticks and never up but by a set, and what `set_key_state` and inspection answer. -/

namespace Sys2Proof.Machine

variable {s t : State}

/-- Every step makes one of the changes a transaction can make, the rest of the schedule apart (R53, R54). -/
theorem step_change (h : step s = .next t) : ∃ rest, Change (s.setSchedule rest) t := by
  obtain ⟨_, hcore⟩ | ⟨tx, rest, _, rfl⟩ := step_cases h
  · exact ⟨s.schedule, .core hcore⟩
  · exact ⟨rest, (State.transact_cases _ tx).1⟩

/-! Fault records (R271, R272, R275). -/

/-- A running core that ends its instruction in a fault raised the recorded cause with the word at `pc` (R271, R272). -/
theorem State.raises_of_runInstruction_faulted {record : FaultRecord} (hrun : s.run = .running)
    (h : s.runInstruction = .next t) (hfault : t.run = .faulted record) :
    s.Raises record.cause ∧ record = ⟨record.cause, s.pc, s.fetchWord⟩ := by
  obtain ⟨i, hdec, hexec⟩ | ⟨op, _, rfl⟩ := State.runInstruction_cases h
  · obtain ⟨_, hword⟩ := encodeOfDecodeIsIdentity _ _ hdec
    obtain ⟨hraises, hpc, hop⟩ := raises_of_exec_faulted hdec hrun hexec hfault
    exact ⟨hraises, by rw [← hpc, ← hword, ← hop]⟩
  · simp [hrun] at hfault

/-- A cause that the word at `pc` raises makes a record that fits the state the fault leaves: `pc`, `SP` and the registers are
as they were (R272, R275). -/
theorem State.Raises.fits {cause : FaultCause} (h : s.Raises cause) :
    FaultRecord.Fits ⟨cause, s.pc, s.fetchWord⟩ (s.raise cause s.fetchWord) := by
  cases cause with
  | stackOverflow => exact ⟨rfl, h⟩
  | stackUnderflow => exact ⟨rfl, h⟩
  | keyRange => exact ⟨rfl, h⟩

/-- The core's step leaves a record that fits: it takes its fault as it stands, and the end of a key wait has no record. -/
theorem coreStep_recordFits (h : s.coreStep = .next t) : t.RecordFits := by
  obtain ⟨hrun, hinstr⟩ | ⟨x, k, _, _, rfl⟩ := State.coreStep_cases h
  · intro record hfault
    obtain ⟨hraises, hrecord⟩ := State.raises_of_runInstruction_faulted hrun hinstr hfault
    obtain rfl := Host.Outcome.next.inj (hinstr.symm.trans (State.runInstruction_of_raises hraises))
    exact hrecord ▸ hraises.fits
  · exact State.recordFits_of_running rfl

/-- Every change a transaction can make keeps the record fitting: but for the core's step and RESET, none touches `run`, `pc`,
`SP` or a register. -/
theorem Change.keeps_recordFits (hs : s.RecordFits) (h : Change s t) : t.RecordFits := by
  cases h with
  | core hcore => exact coreStep_recordFits hcore
  | reset t0 hz _ _ => exact State.recordFits_of_running rfl
  | timers now =>
    obtain e | ⟨k, r, e, _⟩ := State.advanceTimers_cases s now <;> rw [e] <;> exact hs
  | same | load _ _ | key _ _ | rate _ _ | stamp _ => exact hs

/-- Settles O47: taking a transaction off the schedule keeps the record fitting, and so does every change it can make. -/
theorem everyStepKeepsRecordFitting : Obligations.EveryStepKeepsRecordFitting := fun s t hs h => by
  obtain ⟨rest, hchange⟩ := step_change h
  have hrest : (s.setSchedule rest).RecordFits := hs
  exact hchange.keeps_recordFits hrest

/-! Ticks (R280 to R282). -/

theorem State.ticksElapsed_eq (s : State) (now : Rat) : s.ticksElapsed now = ⌊(now - s.tRef) * 60⌋ := by
  simp only [State.ticksElapsed, Config.timerHz, Nat.cast_ofNat]

theorem State.advanceTimers_of_no_tick {now : Rat} (h : s.ticksElapsed now < 1) : s.advanceTimers now = s :=
  if_neg (not_le.2 h)

theorem State.advanceTimers_of_ticks {now : Rat} {k : Nat} (hk : 1 ≤ k) (h : s.ticksElapsed now = k) :
    s.advanceTimers now = (s.tick k).setTRef (s.tRef + (k : Rat) / 60) := by
  simp only [State.advanceTimers, h, Nat.one_le_cast, if_pos hk, Int.toNat_natCast, Int.cast_natCast, Config.timerHz,
    Nat.cast_ofNat]

theorem FrameExcept.setTRef {changed : List Part} (h : FrameExcept changed s t) (r : Rat)
    (hp : .tRef ∈ changed := by decide) : FrameExcept changed s (t.setTRef r) := fun p hout => by
  cases p with
  | tRef => exact absurd hp hout
  | _ => exact h _ hout

/-- A decayed counter as the spec's pseudocode writes it (R280). -/
theorem int_toNat_decay (c : Byte) (k : Nat) : ((decay c k).toNat : Int) = max 0 ((c.toNat : Int) - k) := by
  rw [toNat_decay]
  omega

/-- Settles O41: with no whole tick the call is idle, and with `k` it is `TICK(k)` and the move of `t_ref`. -/
theorem timersDecayByWholeTicks : Obligations.TimersDecayByWholeTicks := fun s now => by
  refine ⟨s.advanceTimers now, rfl, ?_⟩
  rw [← s.ticksElapsed_eq now]
  refine ⟨State.advanceTimers_of_no_tick, fun k hk helapsed => ?_⟩
  rw [State.advanceTimers_of_ticks hk helapsed]
  exact ⟨int_toNat_decay s.dt k, int_toNat_decay s.st k, rfl, (((FrameExcept.refl _ s).setDt _).setSt _).setTRef _⟩

/-! Coalescing (R281 (d)). -/

theorem decay_zero (c : Byte) : decay c 0 = c := BitVec.eq_of_toNat_eq (toNat_decay c 0)

theorem decay_decay (c : Byte) (a b : Nat) : decay (decay c a) b = decay c (a + b) :=
  BitVec.eq_of_toNat_eq (by simp only [toNat_decay, Nat.sub_sub])

/-- A call exactly `k` tick intervals after `t_ref` takes `k` ticks and ends at its own time, for `k = 0` too. -/
theorem State.advanceTimers_tRef_add (s : State) (k : Nat) :
    s.advanceTimers (s.tRef + (k : Rat) / 60) = (s.tick k).setTRef (s.tRef + (k : Rat) / 60) := by
  have helapsed : s.ticksElapsed (s.tRef + (k : Rat) / 60) = k := by
    rw [State.ticksElapsed_eq, add_sub_cancel_left, div_mul_cancel₀ _ (by norm_num), Int.floor_natCast]
  cases k with
  | zero =>
    rw [State.advanceTimers_of_no_tick (by omega), State.tick, decay_zero, decay_zero, Nat.cast_zero, zero_div, add_zero]
    rfl
  | succ k => exact State.advanceTimers_of_ticks (Nat.le_add_left 1 k) helapsed

/-- Settles O42: the second call starts `b` intervals before its time, and `a` ticks and then `b` are `a + b`. -/
theorem timerCallsCoalesce : Obligations.TimerCallsCoalesce := fun s a b => by
  have hsplit : s.tRef + (a + b : Rat) / 60 = s.tRef + (a : Rat) / 60 + (b : Rat) / 60 := by ring
  have hsecond := ((s.tick a).setTRef (s.tRef + (a : Rat) / 60)).advanceTimers_tRef_add b
  have honce := s.advanceTimers_tRef_add (a + b)
  rw [State.setTRef_tRef, ← hsplit] at hsecond
  rw [Nat.cast_add] at honce
  rw [State.advanceTimers_tRef_add, hsecond, honce]
  simp only [State.tick, ← decay_decay]
  rfl

/-! Who may raise a timer (R281 (a)). -/

/-- A change leaves both timers no higher, or is a running core's instruction. -/
theorem Change.timers_le_or_exec (h : Change s t) :
    (t.dt.toNat ≤ s.dt.toNat ∧ t.st.toNat ≤ s.st.toNat) ∨
      s.run = .running ∧ ∃ i, decode s.fetchWord = .instr i ∧ exec i s = .next t := by
  cases h with
  | core hcore =>
    obtain ⟨hrun, hinstr⟩ | ⟨x, k, _, _, rfl⟩ := State.coreStep_cases hcore
    · obtain hexec | ⟨op, _, rfl⟩ := State.runInstruction_cases hinstr
      · exact .inr ⟨hrun, hexec⟩
      · exact .inl ⟨le_rfl, le_rfl⟩
    · exact .inl ⟨le_rfl, le_rfl⟩
  | timers now =>
    obtain e | ⟨k, r, e, _⟩ := State.advanceTimers_cases s now <;> rw [e]
    · exact .inl ⟨le_rfl, le_rfl⟩
    · exact .inl ⟨(toNat_decay s.dt k).trans_le (Nat.sub_le ..), (toNat_decay s.st k).trans_le (Nat.sub_le ..)⟩
  | reset t0 hz _ _ => exact .inl ⟨Nat.zero_le _, Nat.zero_le _⟩
  | same | load _ _ | key _ _ | rate _ _ | stamp _ => exact .inl ⟨le_rfl, le_rfl⟩

/-- An instruction keeps `DT`, or is LD DT and copies its register (R40, R259). -/
theorem exec_dt_cases {i : Instr} (h : exec i s = .next t) : t.dt = s.dt ∨ ∃ x, i = .ldDtVx x ∧ t.dt = s.readV x := by
  obtain ⟨x, rfl⟩ | hkept := exec_writesOwn h .dt
  · obtain rfl := Host.Outcome.next.inj h
    exact .inr ⟨x, rfl, rfl⟩
  · exact .inl hkept

/-- An instruction keeps `ST`, or is LD ST and copies its register (R41, R260). -/
theorem exec_st_cases {i : Instr} (h : exec i s = .next t) : t.st = s.st ∨ ∃ x, i = .ldStVx x ∧ t.st = s.readV x := by
  obtain ⟨x, rfl⟩ | hkept := exec_writesOwn h .st
  · obtain rfl := Host.Outcome.next.inj h
    exact .inr ⟨x, rfl, rfl⟩
  · exact .inl hkept

/-- Settles O43: but for an instruction no change raises a timer, and of the instructions only the two sets write one. -/
theorem timersNeverIncreaseUnlessSet : Obligations.TimersNeverIncreaseUnlessSet := fun s t h => by
  obtain ⟨rest, hchange⟩ := step_change h
  obtain ⟨hdt, hst⟩ | ⟨hrun, i, hdec, hexec⟩ := hchange.timers_le_or_exec
  · exact ⟨.inl hdt, .inl hst⟩
  · constructor
    · obtain hkept | ⟨x, rfl, hset⟩ := exec_dt_cases hexec
      · exact .inl (congrArg BitVec.toNat hkept).le
      · exact .inr ⟨hrun, x, hdec, hset⟩
    · obtain hkept | ⟨x, rfl, hset⟩ := exec_st_cases hexec
      · exact .inl (congrArg BitVec.toNat hkept).le
      · exact .inr ⟨hrun, x, hdec, hset⟩

/-! Inspection (R290). -/

theorem State.length_liveStack (s : State) : s.inspection.liveStack.length = s.sp.val := by
  have hsp := s.sp.isLt
  simp only [State.inspection, List.length_take, Vector.length_toList]
  omega

theorem State.getElem?_liveStack (s : State) {k : Nat} (hk : k < 16) (hlive : k < s.sp.val) :
    s.inspection.liveStack[k]? = some s.stack[k] := by
  simp [State.inspection, List.getElem?_take_of_lt hlive, hk]

/-- The stack shown is the entries in use, so it does not depend on the others (R38, R290). -/
theorem liveStack_eq_of_agreeBelowSp {s' : State} (h : AgreeBelowSp s s') :
    s'.inspection.liveStack = s.inspection.liveStack := by
  obtain ⟨hframe, hlive⟩ := h
  have hsp : s'.sp = s.sp := hframe .sp (by decide)
  refine List.ext_getElem?' fun k hk => ?_
  rw [State.length_liveStack, State.length_liveStack, hsp, max_self] at hk
  have hk16 : k < 16 := by omega
  rw [State.getElem?_liveStack s' hk16 (hsp ▸ hk), State.getElem?_liveStack s hk16 hk, hlive k hk16 hk]

/-- Inspection shows the same of two states with the same memory that differ at most in dead stack entries (R290). -/
theorem inspection_eq_of_agreeBelowSp {s' : State} (h : AgreeBelowSp s s') (hmem : s'.mem = s.mem) :
    s'.inspection = s.inspection := by
  have hlive := liveStack_eq_of_agreeBelowSp h
  obtain ⟨hframe, _⟩ := h
  have hv : s'.v = s.v := Vector.ext fun r hr => hframe .v (by decide) ⟨r, hr⟩
  have hindex : s'.index = s.index := hframe .index (by decide)
  have hpc : s'.pc = s.pc := hframe .pc (by decide)
  have hsp : s'.sp = s.sp := hframe .sp (by decide)
  have hdt : s'.dt = s.dt := hframe .dt (by decide)
  have hst : s'.st = s.st := hframe .st (by decide)
  have hrun : s'.run = s.run := hframe .run (by decide)
  have hdiag : s'.diag = s.diag := hframe .diag (by decide)
  simp only [State.inspection, Inspection.mk.injEq] at hlive ⊢
  exact ⟨hv, hindex, hpc, hsp, hlive, hdt, hst, hrun, hmem, hdiag⟩

/-- Settles O59: the view is a copy, of the stack the entries in use. -/
theorem inspectionShowsOnlyLiveStack : Obligations.InspectionShowsOnlyLiveStack :=
  ⟨fun s => ⟨s.inspection, rfl, rfl, rfl, rfl, rfl, rfl, rfl, rfl, rfl, rfl, s.length_liveStack,
      fun _ hk hlive => s.getElem?_liveStack hk hlive⟩,
    fun _ _ h hmem => congrArg Answer.inspection (inspection_eq_of_agreeBelowSp h hmem)⟩

/-! Keys (R286). -/

theorem State.keyPressed_writeKey (s : State) (k j : Key) (pressed : Bool) :
    (s.writeKey k pressed).keyPressed j = if j = k then pressed else s.keyPressed j := by
  simp only [State.keyPressed, State.writeKey, State.setKeys, Vector.getElem_set, Fin.ext_iff, eq_comm]

theorem writeKey_frame (s : State) (k : Key) (pressed : Bool) : FrameExcept [.keys] s (s.writeKey k pressed) := fun p hp => by
  cases p with
  | keys => exact absurd hp (by decide)
  | v => exact fun _ => rfl
  | mem => exact fun _ => rfl
  | _ => rfl

/-- Settles O57: a key in range is written, and any other is refused. -/
theorem setKeyStateResult : Obligations.SetKeyStateResult := fun s key pressed => by
  refine ⟨fun hkey => ?_, fun hout => ?_⟩
  · have hrange : 0 ≤ key ∧ key < 16 := by omega
    refine ⟨_, dif_pos hrange, fun j => ?_, writeKey_frame s _ pressed⟩
    have hnamed : j = ⟨key.toNat, by omega⟩ ↔ (j.val : Int) = key := by
      simp only [Fin.ext_iff]
      omega
    exact (State.keyPressed_writeKey s _ j pressed).trans (if_congr hnamed rfl rfl)
  · exact dif_neg (by omega)

end Sys2Proof.Machine
end

section
/-! Reset and the instruction rate (70_reset_and_hazards.md R310, R311, R312, R331). -/

namespace Sys2Proof.Machine

/-! Memory after reset lists nothing: the glyph table, then zeros (R312). -/

/-- The glyph table lies at `GLYPH_BASE`, whole (R92). -/
theorem Memory.map_read_nil_range : (List.range 80).map (Memory.read []) = glyphRom := by decide

theorem Memory.initial_of_ge {a : Nat} (h : 80 ≤ a) : Memory.initial a = 0#8 := by
  have hbase : ¬ a < glyphBase := Nat.not_lt_zero a
  have hpast : glyphRom.length ≤ a - glyphBase := h
  rw [Memory.initial, if_neg hbase, List.getD_eq_default _ _ hpast]

theorem Memory.read_nil_of_ge {a : Nat} (hglyphs : 80 ≤ a) (hsize : a < 4096) : Memory.read [] a = 0#8 := by
  have hwrap : wrapAddr a = a := Nat.mod_eq_of_lt hsize
  rw [Memory.read_nil, hwrap, Memory.initial_of_ge hglyphs]

/-! The parts that reset fills with one value (R311). -/

section
variable (s : State) (t0 r : Rat)

theorem State.readV_resetAgain (x : Reg) : (s.resetAgain t0 r).readV x = 0#8 := Vector.getElem_replicate x.isLt

theorem State.getElem_stack_resetAgain {k : Nat} (hk : k < 16) : (s.resetAgain t0 r).stack[k] = 0#16 :=
  Vector.getElem_replicate hk

theorem State.keyPressed_resetAgain (k : Key) : (s.resetAgain t0 r).keyPressed k = false :=
  Vector.getElem_replicate k.isLt

end

/-- Settles O55: reset takes nothing of the state before it but the draws and the schedule, and memory lists nothing. -/
theorem resetFromAnyState : Obligations.ResetFromAnyState := fun s t0 r ht hr =>
  ⟨s.resetAgain t0 r, if_pos ⟨ht, hr⟩, s.readV_resetAgain t0 r, rfl, rfl, fun _ hk => s.getElem_stack_resetAgain t0 r hk,
    rfl, rfl, rfl, rfl, rfl, Framebuffer.pixel_blank, s.keyPressed_resetAgain t0 r, rfl, rfl, rfl,
    List.map_map.symm.trans (congrArg (List.map BitVec.toNat) Memory.map_read_nil_range),
    fun _ hglyphs hsize => Memory.read_nil_of_ge hglyphs hsize⟩

theorem FrameExcept.setRate {changed : List Part} {s t : State} (h : FrameExcept changed s t) (r : Rat)
    (hp : .rate ∈ changed := by decide) : FrameExcept changed s (t.setRate r) := fun p hout => by
  cases p with
  | rate => exact absurd hp hout
  | _ => exact h _ hout

/-- Settles O58: the rate is the one write, made for a positive rate only. -/
theorem setInstructionRateResult : Obligations.SetInstructionRateResult := fun s _ =>
  ⟨fun hpos => ⟨_, if_pos hpos, rfl, (FrameExcept.refl _ s).setRate _⟩, fun hle => if_neg (not_lt.mpr hle)⟩

end Sys2Proof.Machine
end
